-- ==== Sys2Proof/Word.lean ====
section
/-! DEFINITION. The word types of the bus and of the host port (00_scope.md R8). -/

namespace Sys2Proof

/-- One beat on the DATA lines: 8 bits (R8 DATA_LINES). -/
abbrev Byte := BitVec 8

/-- The unit of transfer: a 32-bit word (R8 WORD_BITS, R66). -/
abbrev Word := BitVec 32

/-- A word address of the remote space: 40 bits (R8 ADDR_BITS, R60). -/
abbrev Address := BitVec 40

/-- The address as the host passes it: 64 bits, of which bits 63:40 are ignored (R8, R108). -/
abbrev HostAddress := BitVec 64

/-- The word count of a command: 32 bits (R8 COUNT_BITS). -/
abbrev Count := BitVec 32

/-- A command descriptor: 128 bits (R110). -/
abbrev Descriptor := BitVec 128

/-- A wire symbol nRD ++ START ++ DATA[7:0] (R101). -/
abbrev Symbol := BitVec 10

end Sys2Proof
end

