-- ==== Sys2Proof/Config.lean ====
section
/-! DEFINITION. What the spec leaves to the environment or to the implementation: the lines of the bus, the
values that nothing fixes (opaque, so that no proof can see one) and the pin map. WAIT_BOUND and RFIN_CLK_LOW are
configuration registers and stand in State. -/

namespace Sys2Proof

/-- The twelve lines of the bus (10_state.md R20). -/
inductive Line where
  | data (k : Fin 8)
  | clk
  | nRD
  | start
  | nWAIT
deriving DecidableEq, Repr

namespace Config

/-- The level of nWAIT at a sample that the oracle responder answers: a draw (R24; log 7). Free value. -/
opaque nWaitDraw : Nat → Bool

/-- The byte of a `sample(DATA)` that the oracle responder answers: a draw (R24, 93 U3; log 7). Free value. -/
opaque dataDraw : Nat → Byte

/-- The byte on the DATA wires while nobody drives them or both sides do (R21, 93 U3 and U4; log 8). Free value. -/
opaque undefinedData : Nat → Byte

/-- The host's source word at an index that the offer does not list (R61; log 11). Free value. -/
opaque srcWord : Nat → Word

/-- The script `delay` of the reference responder at an ordinal (R88), `none` for infinity: any function (log 10). Free value. -/
opaque fixtureDelay : Nat → Option Nat

/-- PIN_MAP (R9, D24): where each line sits in the platform's port register. No rule depends on it (log 23). -/
opaque pinMap : Line → Nat

end Config

/-- What R9 asks of PIN_MAP: an injective map. A premise for whoever renders a set of lines as a number. -/
def PinMapInjective : Prop := ∀ l m : Line, Config.pinMap l = Config.pinMap m → l = m

end Sys2Proof
end

