-- ==== Sys2Proof/Syntax.lean ====
section
/-! DEFINITION. The six operations of 30_encoding.md R100: two commands and four phase primitives. -/

namespace Sys2Proof

/-- One constructor for each row of spec/opcode_table.json. -/
inductive Instr where
  /-- `POKE addr, src, n` (R190): write `n` words of the source sequence from word address `addr` on. -/
  | poke (addr : HostAddress) (n : Count)
  /-- `PEEK addr, n` (R191): read `n` words from word address `addr` on into the destination buffer. -/
  | peek (addr : HostAddress) (n : Count)
  /-- `ADDR(a)` (R162): send a 40-bit address. -/
  | addr (a : Address)
  /-- `WDATA(w)` (R166): send one word. -/
  | wdata (w : Word)
  /-- `RDATA() -> w` (R170): receive one word; it has no operand. -/
  | rdata
  /-- `RFIN()` (R174): close a run of reads; it has no operand. -/
  | rfin
deriving DecidableEq, Repr

/-- A command is issued by the host; a primitive only by the engine's block control (R100). -/
def Instr.isCommand : Instr → Bool
  | .poke _ _ => true
  | .peek _ _ => true
  | .addr _ => false
  | .wdata _ => false
  | .rdata => false
  | .rfin => false

end Sys2Proof
end

