-- ==== Sys2Proof/WellFormed.lean ====
section
/-! DEFINITION. The well-formedness checks of 30_encoding.md R112 and R113 and of 00_scope.md R9. Every operand value of an
instruction is legal (R112: every N, every ADDR; R62: every address), so the checks are on the descriptor's own fields,
on the data streams that come with it, on wire symbols and on the configured bound. -/

namespace Sys2Proof

/-- The two operation codes of R111. -/
def opcodeOk (opc : Byte) : Bool := opc == 0x01 || opc == 0x02

/-- RSV, bits 119:96, must be 0 (R110). -/
def reservedOk (rsv : BitVec 24) : Bool := rsv == 0

/-- The stream part of R112: POKE needs at least N source words, PEEK room for N result words. -/
def streamOk (i : Instr) (srcCount room : Nat) : Bool :=
  match i with
  | .poke _ n => decide (n.toNat ≤ srcCount)
  | .peek _ n => decide (n.toNat ≤ room)
  | .addr _ => true
  | .wdata _ => true
  | .rdata => true
  | .rfin => true

/-- A wire symbol the engine can produce: never nRD = 0 with START = 1 (R106, R113). -/
def symbolOk (y : Symbol) : Bool := y.getLsbD 9 || !y.getLsbD 8

/-- WAIT_BOUND is none or a positive integer (R9, R33). -/
def boundOk (b : Option Nat) : Bool := b != some 0

end Sys2Proof
end

