-- ==== Sys2Proof/Decode.lean ====
section
/-! DEFINITION. Decoding and encoding of the six operations (30_encoding.md R101 to R113, R118), and the stateful
decoding of a wire symbol stream (R107). Total: whatever is not an encoding is rejected by name. -/

namespace Sys2Proof

/-- Why a code word is no operation. -/
inductive DecodeError where
  /-- OPC is neither 0x01 nor 0x02 (R111, R113). -/
  | unknownOpcode (opc : Byte)
  /-- RSV is not 0 (R113). -/
  | reservedNotZero (rsv : BitVec 24)
  /-- The beats' nRD and START levels are those of no format (R102 to R105). -/
  | notAWirePattern
  /-- No format has this width (R115). -/
  | unknownWidth (nbits : Nat)
  /-- The word has bits above its format's width. -/
  | tooWide
deriving DecidableEq, Repr

/-! ### The command descriptor (R110, R111) -/

/-- OPC, bits 127:120. -/
def descOpc (d : Descriptor) : Byte := d.extractLsb' 120 8

/-- RSV, bits 119:96. -/
def descRsv (d : Descriptor) : BitVec 24 := d.extractLsb' 96 24

/-- N, bits 95:64. -/
def descN (d : Descriptor) : Count := d.extractLsb' 64 32

/-- ADDR, bits 63:0. -/
def descAddr (d : Descriptor) : HostAddress := d.extractLsb' 0 64

/-- Format CMD (R110, R111, R113). -/
def decodeDescriptor (d : Descriptor) : Except DecodeError Instr :=
  if reservedOk (descRsv d) then
    if descOpc d = 0x01 then .ok (.poke (descAddr d) (descN d))
    else if descOpc d = 0x02 then .ok (.peek (descAddr d) (descN d))
    else .error (.unknownOpcode (descOpc d))
  else .error (.reservedNotZero (descRsv d))

/-! ### Wire symbols (R101) and the wire formats (R102 to R105) -/

/-- nRD ++ START ++ DATA[7:0]. -/
def mkSymbol (nRD start : Bool) (b : Byte) : Symbol := BitVec.ofBool nRD ++ BitVec.ofBool start ++ b

/-- Bit 9: nRD. -/
def symNRD (y : Symbol) : Bool := y.getLsbD 9

/-- Bit 8: START. -/
def symStart (y : Symbol) : Bool := y.getLsbD 8

/-- Bits 7:0: the byte on DATA. -/
def symData (y : Symbol) : Byte := y.extractLsb' 0 8

/-- Beat `k` of a transfer of `beats` symbols, beat 0 leftmost (R118). -/
def beatOf (beats k : Nat) (v : Nat) : Symbol := BitVec.ofNat 10 (v >>> (10 * (beats - 1 - k)))

/-- Whether a symbol has these control levels (R106). -/
def hasLevels (nRD start : Bool) (y : Symbol) : Bool := symNRD y == nRD && symStart y == start

/-- Format A5 (R102): START = 1 on beat 0 only, low byte first. -/
def decodeA5 (v : Nat) : Except DecodeError Instr :=
  let y0 := beatOf 5 0 v
  let y1 := beatOf 5 1 v
  let y2 := beatOf 5 2 v
  let y3 := beatOf 5 3 v
  let y4 := beatOf 5 4 v
  if hasLevels true true y0 && hasLevels true false y1 && hasLevels true false y2 && hasLevels true false y3 &&
      hasLevels true false y4 then
    .ok (.addr (symData y4 ++ symData y3 ++ symData y2 ++ symData y1 ++ symData y0))
  else .error .notAWirePattern

/-- Formats W4 (R103) and R4 (R104): four beats, told apart by nRD. The bytes of R4 are the responder's (R101),
no operand of RDATA (R170; log 20). -/
def decodeWordTransfer (v : Nat) : Except DecodeError Instr :=
  let y0 := beatOf 4 0 v
  let y1 := beatOf 4 1 v
  let y2 := beatOf 4 2 v
  let y3 := beatOf 4 3 v
  if hasLevels true false y0 && hasLevels true false y1 && hasLevels true false y2 && hasLevels true false y3 then
    .ok (.wdata (symData y3 ++ symData y2 ++ symData y1 ++ symData y0))
  else if hasLevels false false y0 && hasLevels false false y1 && hasLevels false false y2 && hasLevels false false y3 then
    .ok .rdata
  else .error .notAWirePattern

/-- Format F0 (R105, R118): the two control levels nRD = 1, START = 0. -/
def decodeF0 (v : Nat) : Except DecodeError Instr :=
  if v = 2 then .ok .rfin else .error .notAWirePattern

/-- The operation whose code is `w`, `nbits` wide. A wire format may come filled up with zeros to whole bytes
(50 bits as 56, 2 bits as 8; log 20). -/
def decodeBits (nbits w : Nat) : Except DecodeError Instr :=
  if nbits = 128 then if w < 2 ^ 128 then decodeDescriptor (BitVec.ofNat 128 w) else .error .tooWide
  else if nbits = 50 ∨ nbits = 56 then if w < 2 ^ 50 then decodeA5 w else .error .tooWide
  else if nbits = 40 then if w < 2 ^ 40 then decodeWordTransfer w else .error .tooWide
  else if nbits = 2 ∨ nbits = 8 then if w < 2 ^ 2 then decodeF0 w else .error .tooWide
  else .error (.unknownWidth nbits)

/-- The instruction that `nbits` bits `w` of the opcode table's numbering stand for. -/
def decodeTableWord (nbits w : Nat) : Option Instr :=
  match decodeBits nbits w with
  | .ok i => some i
  | .error _ => none

/-! ### The encoder -/

/-- Bits 8k+7:8k of an address, of a word (R102, R103). -/
def byteOfAddress (a : Address) (k : Nat) : Byte := a.extractLsb' (8 * k) 8

/-- Bits 8k+7:8k of a word. -/
def byteOfWord (w : Word) (k : Nat) : Byte := w.extractLsb' (8 * k) 8

/-- The symbols of the beats that an operation puts on the wire, in order (R102 to R105). The DATA bits of a read beat
are the responder's: the engine drives nRD and START only, and the encoder leaves those bits 0 (log 20). -/
def wireSymbols : Instr → List Symbol
  | .poke _ _ => []
  | .peek _ _ => []
  | .addr a => [mkSymbol true true (byteOfAddress a 0), mkSymbol true false (byteOfAddress a 1),
      mkSymbol true false (byteOfAddress a 2), mkSymbol true false (byteOfAddress a 3), mkSymbol true false (byteOfAddress a 4)]
  | .wdata w => [mkSymbol true false (byteOfWord w 0), mkSymbol true false (byteOfWord w 1),
      mkSymbol true false (byteOfWord w 2), mkSymbol true false (byteOfWord w 3)]
  | .rdata => [mkSymbol false false 0, mkSymbol false false 0, mkSymbol false false 0, mkSymbol false false 0]
  | .rfin => []

/-- The concatenation of symbols, the first leftmost (R118). -/
def joinSymbols : List Symbol → Nat → Nat
  | [], acc => acc
  | y :: ys, acc => joinSymbols ys (acc * 1024 + y.toNat)

/-- The width of an operation's code (R110, R118). -/
def codeWidth : Instr → Nat
  | .poke _ _ => 128
  | .peek _ _ => 128
  | .addr _ => 50
  | .wdata _ => 40
  | .rdata => 40
  | .rfin => 2

/-- A descriptor from its fields (R110). -/
def mkDescriptor (opc : Byte) (n : Count) (addr : HostAddress) : Descriptor := opc ++ (0 : BitVec 24) ++ n ++ addr

/-- The code of an operation, as spec/opcode_table.json numbers its bits. -/
def encode : Instr → Nat
  | .poke addr n => (mkDescriptor 0x01 n addr).toNat
  | .peek addr n => (mkDescriptor 0x02 n addr).toNat
  | .addr a => joinSymbols (wireSymbols (.addr a)) 0
  | .wdata w => joinSymbols (wireSymbols (.wdata w)) 0
  | .rdata => joinSymbols (wireSymbols .rdata) 0
  | .rfin => 2

/-! ### Stateful decoding of the wire (R107) -/

/-- What an observer of the bus reads off a stream of symbols. -/
inductive Transfer where
  | address (a : Address)
  | wrote (w : Word)
  | read (w : Word)
deriving DecidableEq, Repr

/-- The bytes of the transfers in progress, in order of arrival. -/
structure WireState where
  /-- address bytes since the last START = 1 beat, fewer than five -/
  addrBytes : List Byte
  /-- write-data bytes, fewer than four -/
  dataBytes : List Byte
  /-- read bytes, fewer than four -/
  readBytes : List Byte
deriving DecidableEq, Repr

/-- Low byte first (R63). -/
def wordOfBytes : List Byte → Word
  | [] => 0
  | b :: bs => (wordOfBytes bs <<< 8) ||| b.setWidth 32

/-- Low byte first (R63). -/
def addressOfBytes : List Byte → Address
  | [] => 0
  | b :: bs => (addressOfBytes bs <<< 8) ||| b.setWidth 40

/-- One symbol of the stream (R107): the first four symbols after a START = 1 symbol are address bytes, later ones data
bytes in groups of four. nRD = 0 with START = 1 is never produced (R113). -/
def wireStep (t : WireState) (y : Symbol) : Option (WireState × Option Transfer) :=
  let d := symData y
  if symNRD y then
    if symStart y then some (⟨[d], [], []⟩, none)
    else if t.addrBytes ≠ [] then
      let bs := t.addrBytes ++ [d]
      if bs.length = 5 then some (⟨[], [], []⟩, some (.address (addressOfBytes bs))) else some (⟨bs, [], []⟩, none)
    else
      let bs := t.dataBytes ++ [d]
      if bs.length = 4 then some (⟨[], [], []⟩, some (.wrote (wordOfBytes bs))) else some (⟨[], bs, []⟩, none)
  else if symStart y then none
  else
    let bs := t.readBytes ++ [d]
    if bs.length = 4 then some (⟨[], [], []⟩, some (.read (wordOfBytes bs))) else some (⟨[], [], bs⟩, none)

/-- The transfers of a symbol stream; none at a symbol that the engine never produces. -/
def decodeWire (t : WireState) : List Symbol → Option (List Transfer)
  | [] => some []
  | y :: ys =>
    match wireStep t y with
    | none => none
    | some (t', out) => (decodeWire t' ys).map (out.toList ++ ·)

end Sys2Proof
end

