-- ==== Sys2Proof/Machine/State.lean ====
section
/-! DEFINITION. The state of the engine and of the agents around it, as plain data (10_state.md; the responder:
20_memory.md R85; the other agents: 00_scope.md R10), the ways a step can stop, and the state after reset (R39). -/

namespace Sys2Proof.Machine

/-! ### Pins -/

/-- DIR: the direction of the eight DATA lines (R21). -/
inductive Dir where
  | out
  | inp
deriving DecidableEq, Repr

/-- The single pins the engine writes (R131). -/
inductive CtlPin where
  | clk
  | nRD
  | start
deriving DecidableEq, Repr

/-- The latches behind the bus pins (R21, R22). -/
structure Pins where
  clk : Bool
  nRD : Bool
  start : Bool
  dir : Dir
  dout : Byte
deriving DecidableEq, Repr

/-- A set of pins of the platform's GPIO group (R32): which DATA lines, which control lines, and which pins outside the
bus (`others`, a number whose bit `p` stands for platform pin `p`; no width is stated). -/
structure PinSet where
  data : Byte
  start : Bool
  clk : Bool
  nRD : Bool
  nWAIT : Bool
  others : Nat
deriving DecidableEq, Repr

/-- `M_BUS = (DATA0..DATA7, START)` (R32). -/
def mBus : PinSet :=
  { data := 0xFF, start := true, clk := false, nRD := false, nWAIT := false, others := 0 }

/-! ### The sequencer (R25, R27) -/

/-- OP: which command runs (R25). -/
inductive Op where
  | poke
  | peek
deriving DecidableEq, Repr

/-- The working registers (R25). -/
structure Regs where
  a : Address
  i : Count
  n : Count
  w : Word
  k : BitVec 3
  op : Op
  polls : Nat
deriving DecidableEq, Repr

/-- Positions of ADDR (R27, R162); the beat number of `drv`, `hi`, `lo` is K. -/
inductive AddrPos where
  | nRD | start | dir | wait | ce1 | ce2 | ce3 | drv | hi | lo | cx1 | cx2
deriving DecidableEq, Repr

/-- Positions of WDATA (R27, R166). -/
inductive WdataPos where
  | nRD | start | dir | ce1 | ce2 | ce3 | drv | hi | lo | cx1 | cx2 | wait
deriving DecidableEq, Repr

/-- Positions of RDATA (R27, R170). -/
inductive RdataPos where
  | dir | nRD | lo | hi | smp
deriving DecidableEq, Repr

/-- Positions of RFIN (R27, R174); `clk` only when RFIN_CLK_LOW. -/
inductive RfinPos where
  | clk | nRD | dir | wait
deriving DecidableEq, Repr

/-- A primitive position (R27). -/
inductive PrimPos where
  | addr (p : AddrPos)
  | wdata (p : WdataPos)
  | rdata (p : RdataPos)
  | rfin (p : RfinPos)
deriving DecidableEq, Repr

/-- A block position (R27): the line of R190 or R191 whose `call` is running. `head`: `call ADDR(A)`, POKE's in the loop,
PEEK's before it; `close`, `resend`: PEEK's `call RFIN()` and `call ADDR(A)` at a page boundary; `xfer`: `call WDATA(src[I])`
or `dest[I] <- call RDATA()`; `last`: PEEK's final `call RFIN()`. -/
inductive BlockPos where
  | head | close | resend | xfer | last
deriving DecidableEq, Repr

/-- The sequencer position (R27): IDLE, a pair of a block and a primitive position, or a command's `end:` line. -/
inductive Seq where
  | idle
  | run (b : BlockPos) (p : PrimPos)
  | finish
deriving DecidableEq, Repr

/-! ### STATUS (R31) -/

/-- STATUS; `place` is `STATUS.where`. -/
structure Status where
  code : BitVec 2
  place : BitVec 2
  index : Count
  addr : Address
deriving DecidableEq, Repr

/-- Which wait (R139). -/
inductive WaitKind where
  | addr
  | wdata
  | rfin
deriving DecidableEq, Repr

/-! ### The other agents -/

/-- What the host offers at the command port (R110, R112): a descriptor, the source words it supplies (`srcCount` of them,
the first ones listed in `src`; log 11) and the number of result words it has room for. The port takes nothing else: no
wire row can be offered (R100, R118). -/
structure Offer where
  desc : Descriptor
  src : List Word
  srcCount : Nat
  room : Nat
deriving DecidableEq, Repr

/-- Which responder is at the far end: one whose samples are draws (R24), or the reference responder (R85). -/
inductive Env where
  | oracle
  | fixture
deriving DecidableEq, Repr

/-- Samples the environment has lined up for the oracle responder (R24): taken from the front, free values after them. -/
structure Oracle where
  nWait : List Bool
  data : List Byte
deriving DecidableEq, Repr

/-- The remote space as byte cells: byte `k` of the word at address `a` has the key `4 * a + k` (R63; log 9). -/
abbrev Memory := List Host.Cell

/-- What the script says of the waits it does not list: one delay for all of them, or the free function
`Config.fixtureDelay` of the ordinal (R88; log 10). -/
inductive Beyond where
  | all (d : Option Nat)
  | free
deriving DecidableEq, Repr

/-- The script `delay` of R88: `listed[j]` is `delay(j)`, `none` for infinity; `beyond` gives every later ordinal. -/
structure Script where
  listed : List (Option Nat)
  beyond : Beyond
deriving DecidableEq, Repr

/-- The reference responder (R85) and its nWAIT (R88): `waits` is the ordinal of the current or next wait, `polled` how many
zeros that wait has sampled. -/
structure Fixture where
  mem : Memory
  ptr : Address
  abytes : Fin 5
  sh : Word
  wcnt : Fin 4
  rcnt : Fin 4
  drive : Option Byte
  script : Script
  waits : Nat
  polled : Nat
deriving DecidableEq, Repr

/-- One write by an interrupt handler (R141): the first two are allowed, the others are 93 U10. -/
inductive HandlerWrite where
  | owm (m : PinSet)
  | otherPins (v : Nat)
  | busLine (l : Line) (v : Bool)
  | dataDir (d : Dir)
  | leaveInhibited
deriving DecidableEq, Repr

/-- Whose move it is (R10, R141; log 17). -/
inductive Turn where
  /-- the engine takes a step -/
  | engine
  /-- an interrupt handler writes; it waits while IRQ_INHIBIT = 1 (R219) -/
  | handler (w : HandlerWrite)
  /-- the platform sets WAIT_BOUND and RFIN_CLK_LOW (R33, R243) -/
  | configure (bound : Option Nat) (clkLow : Bool)
deriving DecidableEq, Repr

/-! ### The state -/

/-- Everything the spec gives the machine, and the agents it acts with. -/
structure State where
  /-- CLK, nRD, START, DIR, DOUT (R21, R22) -/
  pins : Pins
  /-- levels of the platform's pins outside the bus (R10, R141) -/
  otherPins : Nat
  /-- OWM (R32) -/
  owm : PinSet
  /-- OWM_SAVED (R32) -/
  owmSaved : PinSet
  /-- IRQ_INHIBIT (R30) -/
  irqInhibit : Bool
  /-- BUSY (R29) -/
  busy : Bool
  /-- STATUS (R31) -/
  status : Status
  /-- A, I, N, W, K, OP, POLLS (R25) -/
  regs : Regs
  /-- the sequencer position (R27) -/
  seq : Seq
  /-- WAIT_BOUND (R33) -/
  waitBound : Option Nat
  /-- RFIN_CLK_LOW (R34) -/
  rfinClkLow : Bool
  /-- the command port: the host's offers in order (R110; log 13) -/
  port : List Offer
  /-- SRC of the command in flight (R61) -/
  src : List Word
  /-- DEST: the words written, by rising index (R61; log 12) -/
  dest : List (Nat × Word)
  /-- a read is in progress on the bus (R37 (c)); hidden, no rule of the engine reads it (log 21) -/
  readRun : Bool
  /-- the responder at the far end (MODEL's own; log 7) -/
  env : Env
  /-- the oracle's lined-up samples (MODEL's own; log 7) -/
  oracle : Oracle
  /-- the reference responder (R85) -/
  fix : Fixture
  /-- how many free values have been drawn (MODEL's own; log 7) -/
  draws : Nat
  /-- the moves lined up; the engine moves when there is none (MODEL's own; log 17) -/
  turns : List Turn
deriving DecidableEq, Repr

/-- The engine never stops with a fault: its failures are a hang, in which it stays where it is (R210), and the two faults of
R211, which are reported in STATUS and are next states (R213, R214). -/
inductive Fault where
deriving DecidableEq, Repr

/-- Why the model says nothing about what comes next. -/
inductive Refusal where
  /-- Raised by `exec` alone, for an instruction without a meaning; no arm raises it. Safe. -/
  | notModelled (mnemonic : String)
  /-- Raised when an instruction is issued while another is in flight (93 U1, R213 (b), R160); `step` never does so: an offer
  waits at the port. Safe: the spec gives the overlap no meaning. -/
  | overlap
  /-- Raised by `exec` for a primitive that no command in flight has called, the sequencer at IDLE: only the engine's block
  control issues a primitive (R100, R160); `step` never does so. Safe: the spec gives such an issue no meaning. -/
  | notCalled
  /-- Raised by a handler's move that writes a bus line or the DATA direction or leaves interrupts inhibited (93 U10). Safe. -/
  | handlerTouchesBus
  /-- Raised by a platform move that changes the configuration while a command is in flight (93 U14) or sets a bound that
  is not positive (R9). Safe. -/
  | badConfiguration
deriving DecidableEq, Repr

/-! ### Reset (R39, R240, R241) -/

/-- The parameter RESET_PINS (R9, R241): what the platform's reset leaves on DIR, DOUT, nRD and START. -/
structure ResetPins where
  nRD : Bool
  start : Bool
  dir : Dir
  dout : Byte
deriving DecidableEq, Repr

/-- The levels that 95_test_vectors.md takes as its convention (log 3). -/
def ResetPins.convention : ResetPins := { nRD := true, start := false, dir := .out, dout := 0x00 }

/-- The state after reset for given RESET_PINS: IDLE, BUSY 0, IRQ_INHIBIT 0, STATUS 0, CLK 0 (R39, R243); the reference
responder's counters as R85 has them. What R39 leaves unspecified has the values of logs 3 to 13. -/
def State.resetWith (p : ResetPins) : State :=
  { pins := { clk := false, nRD := p.nRD, start := p.start, dir := p.dir, dout := p.dout }
    otherPins := 0
    owm := { data := 0, start := false, clk := false, nRD := false, nWAIT := false, others := 0 }
    owmSaved := { data := 0, start := false, clk := false, nRD := false, nWAIT := false, others := 0 }
    irqInhibit := false
    busy := false
    status := { code := 0, place := 0, index := 0, addr := 0 }
    regs := { a := 0, i := 0, n := 0, w := 0, k := 0, op := .poke, polls := 0 }
    seq := .idle
    waitBound := none
    rfinClkLow := false
    port := []
    src := []
    dest := []
    readRun := false
    env := .oracle
    oracle := { nWait := [], data := [] }
    fix :=
      { mem := [], ptr := 0, abytes := 0, sh := 0, wcnt := 0, rcnt := 0, drive := none
        script := { listed := [], beyond := .all (some 0) }, waits := 0, polled := 0 }
    draws := 0
    turns := [] }

/-- The machine right after reset. -/
def State.reset : State := State.resetWith ResetPins.convention

end Sys2Proof.Machine
end

