-- ==== Sys2Proof/Machine/Flags.lean ====
section
/-! DEFINITION. The flags: the values of STATUS (60_exceptions.md R211), and the writes of IRQ_INHIBIT and BUSY
(10_state.md R29, R30). No action writes a flag as a side effect other than these three. -/

namespace Sys2Proof.Machine

/-- `STATUS.where` of a wait (R31). -/
def waitCode : WaitKind → BitVec 2
  | .addr => 0
  | .wdata => 1
  | .rfin => 2

/-- OK: all four fields 0 (R211). -/
def statusOk : Status := { code := 0, place := 0, index := 0, addr := 0 }

/-- ACK_TIMEOUT(where, I, A) (R211, R212). -/
def statusAckTimeout (w : WaitKind) (i : Count) (a : Address) : Status :=
  { code := 1, place := waitCode w, index := i, addr := a }

/-- CONTRACT (R211, R213). -/
def statusContract : Status := { code := 2, place := 3, index := 0, addr := 0 }

/-- `IRQ_INHIBIT <- v` (R30). -/
def setInhibit (v : Bool) (s : State) : State := { s with irqInhibit := v }

end Sys2Proof.Machine
end

