-- ==== Sys2Proof/Machine/Operands.lean ====
section
/-! DEFINITION. The operand forms: address truncation and increment, the page test, the byte multiplexer and its
inverse, the host's data ports (41_phase_primitives.md R161, 42_block_operations.md R192, R193, R199). -/

namespace Sys2Proof.Machine

/-- `trunc_40(addr)`: bits 63:40 are dropped (R108, R199 (a)). -/
def trunc40 (addr : HostAddress) : Address := addr.setWidth 40

/-- `A <- trunc_40(A + 1)` (R192, R199 (b)): it wraps at the top of the space (R196). -/
def nextAddress (a : Address) : Address := a + 1

/-- `A[7:0] == 0` (R193). -/
def pageStart (a : Address) : Bool := a.setWidth 8 == (0 : BitVec 8)

/-- `byte(v, K) = trunc_8(v >> (8*K))` (R161). -/
def muxByte {w : Nat} (v : BitVec w) (k : Nat) : Byte := (v >>> (8 * k)).setWidth 8

/-- `v[8*K+7 : 8*K] <- b` (R161's inverse). -/
def putByte {w : Nat} (v : BitVec w) (k : Nat) (b : Byte) : BitVec w :=
  (v &&& ~~~((0xFF : BitVec 8).setWidth w <<< (8 * k))) ||| (b.setWidth w <<< (8 * k))

/-- `SRC[i]`: a listed word, or the host's word at that index (R61; log 11). -/
def srcAt (src : List Word) (i : Nat) : Word :=
  match src[i]? with
  | some w => w
  | none => Config.srcWord i

/-- `DEST[i] <- w` in the record of the words written, kept in rising index order (R61; log 12). -/
def destWrite (d : List (Nat × Word)) (i : Nat) (w : Word) : List (Nat × Word) :=
  match d with
  | [] => [(i, w)]
  | (j, v) :: r => if i < j then (i, w) :: (j, v) :: r else if i = j then (i, w) :: r else (j, v) :: destWrite r i w

/-- `DEST[i]`, none where the engine has written nothing. -/
def destRead (d : List (Nat × Word)) (i : Nat) : Option Word :=
  match d with
  | [] => none
  | (j, v) :: r => if i = j then some v else destRead r i

/-- The level on the DATA wires (R21): none where it has no defined value, nobody driving (93 U3) or both (93 U4). -/
def dataWires (p : Pins) (drive : Option Byte) : Option Byte :=
  match p.dir, drive with
  | .out, none => some p.dout
  | .inp, some b => some b
  | .out, some _ => none
  | .inp, none => none

/-- The wire symbol nRD ++ START ++ DATA[7:0] at this moment (R101), for what the responder drives; none where DATA has no
defined value. -/
def busSymbol (q : Pins) (drive : Option Byte) : Option Symbol := (dataWires q drive).map (mkSymbol q.nRD q.start)

end Sys2Proof.Machine
end

