-- ==== Sys2Proof/Machine/Memory.lean ====
section
/-! DEFINITION. The remote space as one canonical list of byte cells (20_memory.md R60, R63, R85): addresses strictly
rising, no cell equal to what an unlisted byte reads as. -/

namespace Sys2Proof.Machine

/-- What an unlisted byte reads as. The spec gives `mem0` as a parameter (R85); DESIGN CHOICE 0 (log 9). -/
def unlistedByte : Byte := 0

/-- One past the largest key: 2^40 words of four bytes. -/
def memoryEnd : Nat := 2 ^ 42

/-- The byte at a key. -/
def readByte (m : Memory) (key : Nat) : Byte :=
  match m with
  | [] => unlistedByte
  | (k, b) :: r => if key = k then b else readByte r key

/-- A list with `key` in front of it, unless the value is what an unlisted byte reads as. -/
def consCell (key : Nat) (v : Byte) (r : Memory) : Memory := if v = unlistedByte then r else (key, v) :: r

/-- Write the byte at a key, keeping the canonical form. -/
def writeByte (m : Memory) (key : Nat) (v : Byte) : Memory :=
  match m with
  | [] => consCell key v []
  | (k, b) :: r =>
    if key < k then consCell key v ((k, b) :: r)
    else if key = k then consCell key v r
    else (k, b) :: writeByte r key v

/-- Every key of the list is at least `lo`, keys rise strictly, no cell is listed for nothing, all inside the space. -/
def wfFrom (lo : Nat) (m : Memory) : Bool :=
  match m with
  | [] => true
  | (k, b) :: r => decide (lo ≤ k) && decide (k < memoryEnd) && (b != unlistedByte) && wfFrom (k + 1) r

/-- The canonical form. -/
def Memory.wf (m : Memory) : Bool := wfFrom 0 m

/-- The key of byte `k` of the word at `a`: low byte first (R63; log 9). -/
def byteKey (a : Address) (k : Nat) : Nat := 4 * a.toNat + k

/-- `MemRead(a, 4)` (R12). -/
def readWord (m : Memory) (a : Address) : Word :=
  readByte m (byteKey a 3) ++ readByte m (byteKey a 2) ++ readByte m (byteKey a 1) ++ readByte m (byteKey a 0)

/-- `MemWrite(a, 4, v)` (R12). -/
def writeWord (m : Memory) (a : Address) (v : Word) : Memory :=
  writeByte (writeByte (writeByte (writeByte m (byteKey a 0) (muxByte v 0)) (byteKey a 1) (muxByte v 1))
    (byteKey a 2) (muxByte v 2)) (byteKey a 3) (muxByte v 3)

end Sys2Proof.Machine
end

