-- ==== Sys2Proof/Machine/Responder.lean ====
section
/-! DEFINITION. The far end of the bus: the reference responder's reactions to level changes (20_memory.md R86, R87), the
samples of nWAIT and DATA (10_state.md R24, 20_memory.md R88) from it or from the oracle. -/

namespace Sys2Proof.Machine

/-- The pointer after a word: the low byte wraps inside the page (R86, R87). -/
def advancePtr (p : Address) : Address := p.extractLsb' 8 32 ++ (p.setWidth 8 + (1 : BitVec 8))

/-- A falling edge of CLK with nRD = 1, START level `st` and the byte `d` on DATA (R86). -/
def latchBeat (st : Bool) (d : Byte) (f : Fixture) : Fixture :=
  if st then { f with ptr := putByte f.ptr 0 d, abytes := 1, wcnt := 0 }
  else if f.abytes ≠ 0 then
    { f with ptr := putByte f.ptr f.abytes.val d, abytes := if f.abytes = 4 then 0 else f.abytes + 1 }
  else
    let sh := putByte f.sh f.wcnt.val d
    if f.wcnt = 3 then { f with sh := sh, mem := writeWord f.mem f.ptr sh, ptr := advancePtr f.ptr, wcnt := 0 }
    else { f with sh := sh, wcnt := f.wcnt + 1 }

/-- A rising edge of CLK with nRD = 0 (R87). -/
def presentByte (f : Fixture) : Fixture :=
  let d := muxByte (readWord f.mem f.ptr) f.rcnt.val
  if f.rcnt = 3 then { f with drive := some d, ptr := advancePtr f.ptr, rcnt := 0 }
  else { f with drive := some d, rcnt := f.rcnt + 1 }

/-- A change of nRD (R87). -/
def turnBus (before after : Bool) (f : Fixture) : Fixture :=
  if before && !after then { f with rcnt := 0 }
  else if !before && after then { f with drive := none, rcnt := 0 }
  else f

/-- A falling edge of CLK with nRD = 1: the responder latches what is on the wires, a free value where that has no
defined value (93 U3, U4; log 8). -/
def latchWires (s : State) : State :=
  match dataWires s.pins s.fix.drive with
  | some d => { s with fix := latchBeat s.pins.start d s.fix }
  | none => { s with fix := latchBeat s.pins.start (Config.undefinedData s.draws) s.fix, draws := s.draws + 1 }

/-- The reference responder looks at the wires after an engine action (R85): it reacts to level changes only. -/
def watch (before : Pins) (s : State) : State :=
  match s.env with
  | .oracle => s
  | .fixture =>
    let t := { s with fix := turnBus before.nRD s.pins.nRD s.fix }
    if before.clk && !s.pins.clk && s.pins.nRD then latchWires t
    else if !before.clk && s.pins.clk && !s.pins.nRD then { t with fix := presentByte t.fix }
    else t

/-- `delay(j)` (R88): how many zeros the wait numbered `j` samples, `none` for ever. -/
def scriptDelay (c : Script) (j : Nat) : Option Nat :=
  match c.listed[j]? with
  | some d => d
  | none =>
    match c.beyond with
    | .all d => d
    | .free => Config.fixtureDelay j

/-- `sample(nWAIT)` (R24, R88): the level, and the state after the environment has answered. -/
def sampleNWait (s : State) : Bool × State :=
  match s.env with
  | .oracle =>
    match s.oracle.nWait with
    | [] => (Config.nWaitDraw s.draws, { s with draws := s.draws + 1 })
    | v :: vs => (v, { s with oracle := { s.oracle with nWait := vs } })
  | .fixture =>
    match scriptDelay s.fix.script s.fix.waits with
    | none => (false, s)
    | some d =>
      if s.fix.polled < d then (false, { s with fix := { s.fix with polled := s.fix.polled + 1 } }) else (true, s)

/-- A wait of the run is over, by a sample of 1 or by a timeout: the next ordinal's begins with no zero sampled (R88). -/
def waitOver (s : State) : State :=
  match s.env with
  | .oracle => s
  | .fixture => { s with fix := { s.fix with waits := s.fix.waits + 1, polled := 0 } }

/-- `sample(DATA)` (R24, R136, R87): the byte, and the state after the environment has answered. -/
def sampleData (s : State) : Byte × State :=
  match s.env with
  | .oracle =>
    match s.oracle.data with
    | [] => (Config.dataDraw s.draws, { s with draws := s.draws + 1 })
    | b :: bs => (b, { s with oracle := { s.oracle with data := bs } })
  | .fixture =>
    match dataWires s.pins s.fix.drive with
    | some b => (b, s)
    | none => (Config.undefinedData s.draws, { s with draws := s.draws + 1 })

end Sys2Proof.Machine
end

