-- ==== Sys2Proof/Machine/Ops.lean ====
section
/-! DEFINITION. The nine kinds of action (40_pin_actions.md R130), each one atomic (R142), the wait (R139), the entry of
the two faults (60_exceptions.md R213, R214) and the end of a command (R190, R191). There is no return from a fault
(R216). -/

namespace Sys2Proof.Machine

/-- The actions of R130; the compound WAIT is a run of `sampleNWait`. -/
inductive Action where
  | pin (p : CtlPin) (v : Bool)
  | dir (d : Dir)
  | mwrite (b : Byte) (s : Bool)
  | sampleData
  | sampleNWait
  | inhibit (v : Bool)
  | saveOwm
  | writeOwmBus
  | restoreOwm
deriving DecidableEq, Repr

/-- Change the bus latches in one action; the responder sees the levels before and after (R85, R140, R142). -/
def setPins (p : Pins) (s : State) : State := watch s.pins { s with pins := p }

/-- One latch at a new level (R131). -/
def pinsWith (p : CtlPin) (v : Bool) (q : Pins) : Pins :=
  match p with
  | .clk => { q with clk := v }
  | .nRD => { q with nRD := v }
  | .start => { q with start := v }

/-- Single-pin write (R131); not subject to OWM. -/
def writePin (p : CtlPin) (v : Bool) (s : State) : State := setPins (pinsWith p v s.pins) s

/-- Direction write (R132); DOUT is not changed. -/
def writeDir (d : Dir) (s : State) : State := setPins { s.pins with dir := d } s

/-- The bus latches after a whole-port write of the byte `b` with START bit `v` and zeros elsewhere, through the mask `m`: it
changes exactly the pins in the mask (R32, R133; log 15). -/
def maskedPins (m : PinSet) (b : Byte) (v : Bool) (q : Pins) : Pins :=
  { clk := if m.clk then false else q.clk
    nRD := if m.nRD then false else q.nRD
    start := if m.start then v else q.start
    dir := q.dir
    dout := (q.dout &&& ~~~m.data) ||| (b &&& m.data) }

/-- The pins outside the bus after the same write: those in the mask go to 0. -/
def maskedOthers (m : PinSet) (v : Nat) : Nat := v ^^^ (v &&& m.others)

/-- Masked port write `MWRITE(b, s)` (R133). -/
def mwrite (b : Byte) (v : Bool) (s : State) : State :=
  setPins (maskedPins s.owm b v s.pins) { s with otherPins := maskedOthers s.owm s.otherPins }

/-- Data sample of beat K: `W[8*K+7 : 8*K] <- sample(DATA)` (R136, R161, R170). -/
def readBeat (s : State) : State :=
  let r := sampleData s
  { r.2 with regs := { r.2.regs with w := putByte r.2.regs.w r.2.regs.k.toNat r.1 } }

/-- Mask save `OWM_SAVED <- OWM` (R137). -/
def saveOwm (s : State) : State := { s with owmSaved := s.owm }

/-- Mask write `OWM <- M_BUS` (R137). -/
def writeOwmBus (s : State) : State := { s with owm := mBus }

/-- Mask write `OWM <- OWM_SAVED` (R138). -/
def restoreOwm (s : State) : State := { s with owm := s.owmSaved }

/-- Perform one action (R130). The branch that a wait sample decides is `waitStep`'s. -/
def perform (x : Action) (s : State) : State :=
  match x with
  | .pin p v => writePin p v s
  | .dir d => writeDir d s
  | .mwrite b v => mwrite b v s
  | .sampleData => readBeat s
  | .sampleNWait => (sampleNWait s).2
  | .inhibit v => setInhibit v s
  | .saveOwm => saveOwm s
  | .writeOwmBus => writeOwmBus s
  | .restoreOwm => restoreOwm s

/-! ### Faults -/

/-- `raise ACK_TIMEOUT(where, I, A)` (R214): one step, no pin action; the pins keep their levels. The wait is over for
the responder's script (R88), and with it a read run that the RFIN was closing (R37 (c)). -/
def raiseAckTimeout (w : WaitKind) (s : State) : State :=
  waitOver { s with status := statusAckTimeout w s.regs.i s.regs.a, busy := false, seq := .idle, readRun := false }

/-- CONTRACT at accept (R213 (a), R113): no pin action, BUSY stays 0; the offer leaves the port. -/
def refuseContract (s : State) : State := { s with status := statusContract, port := s.port.tail }

/-- `end:` (R190, R191): `STATUS <- OK ; BUSY <- 0 ; seq <- IDLE`. -/
def endCommand (s : State) : State := { s with status := statusOk, busy := false, seq := .idle }

/-! ### The wait (R139) -/

/-- The head of a wait: `POLLS <- 0`; POLLS exists only when WAIT_BOUND is not none (R25, R223; log 16). -/
def enterWait (s : State) : State :=
  match s.waitBound with
  | none => s
  | some _ => { s with regs := { s.regs with polls := 0 } }

/-- A sample of 0 counts (R139). -/
def countPoll (s : State) : State :=
  match s.waitBound with
  | none => s
  | some _ => { s with regs := { s.regs with polls := s.regs.polls + 1 } }

/-- WAIT_BOUND is B and B samples of 0 have been taken (R139). -/
def boundReached (s : State) : Bool :=
  match s.waitBound with
  | none => false
  | some b => s.regs.polls == b

/-- One step at a WAIT position (R139): raise ACK_TIMEOUT if the bound is reached, else take one sample; a 1 ends the
wait and the primitive goes on as `cont` says, a 0 stays here. -/
def waitStep (w : WaitKind) (cont : State → State) (s : State) : State :=
  if boundReached s then raiseAckTimeout w s
  else
    match sampleNWait s with
    | (true, t) => cont (waitOver t)
    | (false, t) => countPoll t

/-- `seq <- position`. -/
def goto (b : BlockPos) (p : PrimPos) (s : State) : State := { s with seq := .run b p }

end Sys2Proof.Machine
end

