-- ==== Sys2Proof/Machine/Block.lean ====
section
/-! DEFINITION. Block control (42_block_operations.md R190 to R193): which primitive a command calls next, the running
address and the page-boundary test. The tests take no step (10_state.md R28). -/

namespace Sys2Proof.Machine

/-- Enter ADDR: `K <- 0` (R162, R25). -/
def callAddr (b : BlockPos) (s : State) : State :=
  { s with seq := .run b (.addr .nRD), regs := { s.regs with k := 0 } }

/-- Enter WDATA with the word `w`: `W <- w`, `K <- 0` (R166). -/
def callWdata (b : BlockPos) (w : Word) (s : State) : State :=
  { s with seq := .run b (.wdata .nRD), regs := { s.regs with w := w, k := 0 } }

/-- Enter RDATA: `K <- 0` (R170). -/
def callRdata (b : BlockPos) (s : State) : State :=
  { s with seq := .run b (.rdata .dir), regs := { s.regs with k := 0 } }

/-- The first position of RFIN: `F.CLK` only when RFIN_CLK_LOW (R174). -/
def rfinEntry (clkLow : Bool) : RfinPos := if clkLow then .clk else .nRD

/-- Enter RFIN (R174). -/
def callRfin (b : BlockPos) (s : State) : State := { s with seq := .run b (.rfin (rfinEntry s.rfinClkLow)) }

/-- The command has come to its `end:` line. -/
def toEnd (s : State) : State := { s with seq := .finish }

/-- `A <- trunc_40(A + 1) ; I <- I + 1` (R190, R191). -/
def advanceWord (s : State) : State :=
  { s with regs := { s.regs with a := nextAddress s.regs.a, i := s.regs.i + 1 } }

/-- `dest[I] <- W` (R191): once, with the whole word. -/
def storeDest (s : State) : State := { s with dest := destWrite s.dest s.regs.i.toNat s.regs.w }

/-- The loop of POKE (R190): the test `I < N` and the resend test `I == 0 or A[7:0] == 0`. -/
def pokeLoop (s : State) : State :=
  if s.regs.i < s.regs.n then
    if s.regs.i == 0 || pageStart s.regs.a then callAddr .head s
    else callWdata .xfer (srcAt s.src s.regs.i.toNat) s
  else toEnd s

/-- The loop of PEEK (R191): the test `I < N`, then Read-Finish first when `I != 0 and A[7:0] == 0`; the final
Read-Finish when the loop is over. -/
def peekLoop (s : State) : State :=
  if s.regs.i < s.regs.n then
    if s.regs.i != 0 && pageStart s.regs.a then callRfin .close s else callRdata .xfer s
  else callRfin .last s

/-- Where a primitive's end leads: the line after the `call` (R28), on through the tests to the next call. -/
def afterCall (b : BlockPos) (s : State) : State :=
  match b with
  | .head =>
    match s.regs.op with
    | .poke => callWdata .xfer (srcAt s.src s.regs.i.toNat) s
    | .peek => peekLoop s
  | .close => callAddr .resend s
  | .resend => callRdata .xfer s
  | .xfer =>
    match s.regs.op with
    | .poke => pokeLoop (advanceWord s)
    | .peek => peekLoop (advanceWord (storeDest s))
  | .last => toEnd s

/-- The host's stream of the offered command (R112): how many source words it supplies. -/
def offeredSrcCount (s : State) : Nat :=
  match s.port with
  | [] => 0
  | o :: _ => o.srcCount

/-- The source words listed with the offered command. -/
def offeredSrc (s : State) : List Word :=
  match s.port with
  | [] => []
  | o :: _ => o.src

/-- How many result words the host can take (R112). -/
def offeredRoom (s : State) : Nat :=
  match s.port with
  | [] => 0
  | o :: _ => o.room

/-- `accept:` (R190, R191): `BUSY <- 1 ; OP <- op ; A <- trunc_40(addr) ; N <- n ; I <- 0`. The descriptor leaves the
port and its source sequence is SRC from now on. -/
def accept (op : Op) (addr : HostAddress) (n : Count) (s : State) : State :=
  { s with
    busy := true
    regs := { s.regs with op := op, a := trunc40 addr, n := n, i := 0 }
    src := offeredSrc s
    port := s.port.tail }

/-- No instruction is in flight, so that the port is ready (R29, R213). -/
def portReady (s : State) : Bool := !s.busy && s.seq == .idle

end Sys2Proof.Machine
end

