-- ==== Sys2Proof/Machine/Commands.lean ====
section
/-! DEFINITION. The two commands (42_block_operations.md R190, R191): their accept step. What they do after it are the
calls that block control makes, each a primitive with a meaning of its own (log 1). -/

namespace Sys2Proof.Machine

/-- POKE (R190): refused with CONTRACT when the stream supplies fewer than N words (R112, R213); else accepted, and the
sequencer goes to the first call, or to `end:` when N = 0 (R195). -/
def execPoke (addr : HostAddress) (n : Count) (s : State) : Host.Outcome State Fault Refusal :=
  if portReady s then
    if streamOk (.poke addr n) (offeredSrcCount s) (offeredRoom s) then .next (pokeLoop (accept .poke addr n s))
    else .next (refuseContract s)
  else .refused .overlap

/-- PEEK (R191): refused with CONTRACT when the host has room for fewer than N words; else accepted, and the first address
phase is called, also when N = 0. -/
def execPeek (addr : HostAddress) (n : Count) (s : State) : Host.Outcome State Fault Refusal :=
  if portReady s then
    if streamOk (.peek addr n) (offeredSrcCount s) (offeredRoom s) then .next (callAddr .head (accept .peek addr n s))
    else .next (refuseContract s)
  else .refused .overlap

end Sys2Proof.Machine
end

