-- ==== Sys2Proof/Machine/Phases.lean ====
section
/-! DEFINITION. The four phase primitives (41_phase_primitives.md): for each, the action of every position, the position
after it, and its meaning. A meaning performs the action of the position the sequencer is at; only block control brings the
sequencer there, so a primitive that no command has called is refused (R100, R160; log 2). -/

namespace Sys2Proof.Machine

/-! ### ADDR (R162) -/

/-- The action at each position of `ADDR(a)`, in beat `k`. -/
def addrAction (a : Address) (k : BitVec 3) : AddrPos → Action
  | .nRD => .pin .nRD true
  | .start => .pin .start true
  | .dir => .dir .out
  | .wait => .sampleNWait
  | .ce1 => .inhibit true
  | .ce2 => .saveOwm
  | .ce3 => .writeOwmBus
  | .drv => .mwrite (muxByte a k.toNat) (k == 0)
  | .hi => .pin .clk true
  | .lo => .pin .clk false
  | .cx1 => .restoreOwm
  | .cx2 => .inhibit false

/-- The end of a beat: the next one, or `q` after the beat `last`. -/
def nextBeat (last : Nat) (b : BlockPos) (p q : PrimPos) (s : State) : State :=
  if s.regs.k.toNat < last then { s with seq := .run b p, regs := { s.regs with k := s.regs.k + 1 } }
  else goto b q s

/-- What follows a position of ADDR once its action is done. -/
def addrAfter (b : BlockPos) : AddrPos → State → State
  | .nRD, s => goto b (.addr .start) s
  | .start, s => goto b (.addr .dir) s
  | .dir, s => goto b (.addr .wait) (enterWait s)
  | .wait, s => goto b (.addr .ce1) s
  | .ce1, s => goto b (.addr .ce2) s
  | .ce2, s => goto b (.addr .ce3) s
  | .ce3, s => goto b (.addr .drv) s
  | .drv, s => goto b (.addr .hi) s
  | .hi, s => goto b (.addr .lo) s
  | .lo, s => nextBeat 4 b (.addr .drv) (.addr .cx1) s
  | .cx1, s => goto b (.addr .cx2) s
  | .cx2, s => afterCall b s

/-- One step of `ADDR(a)` at a position. -/
def addrStep (a : Address) (b : BlockPos) (p : AddrPos) (s : State) : State :=
  if p = .wait then waitStep .addr (addrAfter b .wait) s
  else addrAfter b p (perform (addrAction a s.regs.k p) s)

/-- ADDR (R162). -/
def execAddr (a : Address) (s : State) : Host.Outcome State Fault Refusal :=
  match s.seq with
  | .run b (.addr p) => .next (addrStep a b p s)
  | .idle => .refused .notCalled
  | .run _ (.wdata _) => .refused .overlap
  | .run _ (.rdata _) => .refused .overlap
  | .run _ (.rfin _) => .refused .overlap
  | .finish => .refused .overlap

/-! ### WDATA (R166) -/

/-- The action at each position of `WDATA(w)`, in beat `k`. -/
def wdataAction (w : Word) (k : BitVec 3) : WdataPos → Action
  | .nRD => .pin .nRD true
  | .start => .pin .start false
  | .dir => .dir .out
  | .ce1 => .inhibit true
  | .ce2 => .saveOwm
  | .ce3 => .writeOwmBus
  | .drv => .mwrite (muxByte w k.toNat) false
  | .hi => .pin .clk true
  | .lo => .pin .clk false
  | .cx1 => .restoreOwm
  | .cx2 => .inhibit false
  | .wait => .sampleNWait

/-- What follows a position of WDATA once its action is done. -/
def wdataAfter (b : BlockPos) : WdataPos → State → State
  | .nRD, s => goto b (.wdata .start) s
  | .start, s => goto b (.wdata .dir) s
  | .dir, s => goto b (.wdata .ce1) s
  | .ce1, s => goto b (.wdata .ce2) s
  | .ce2, s => goto b (.wdata .ce3) s
  | .ce3, s => goto b (.wdata .drv) s
  | .drv, s => goto b (.wdata .hi) s
  | .hi, s => goto b (.wdata .lo) s
  | .lo, s => nextBeat 3 b (.wdata .drv) (.wdata .cx1) s
  | .cx1, s => goto b (.wdata .cx2) s
  | .cx2, s => goto b (.wdata .wait) (enterWait s)
  | .wait, s => afterCall b s

/-- One step of `WDATA(w)` at a position. -/
def wdataStep (w : Word) (b : BlockPos) (p : WdataPos) (s : State) : State :=
  if p = .wait then waitStep .wdata (wdataAfter b .wait) s
  else wdataAfter b p (perform (wdataAction w s.regs.k p) s)

/-- WDATA (R166). -/
def execWdata (w : Word) (s : State) : Host.Outcome State Fault Refusal :=
  match s.seq with
  | .run b (.wdata p) => .next (wdataStep w b p s)
  | .idle => .refused .notCalled
  | .run _ (.addr _) => .refused .overlap
  | .run _ (.rdata _) => .refused .overlap
  | .run _ (.rfin _) => .refused .overlap
  | .finish => .refused .overlap

/-! ### RDATA (R170) -/

/-- The action at each position of RDATA. -/
def rdataAction : RdataPos → Action
  | .dir => .dir .inp
  | .nRD => .pin .nRD false
  | .lo => .pin .clk false
  | .hi => .pin .clk true
  | .smp => .sampleData

/-- What follows a position of RDATA once its action is done. A read is in progress from the first action on (R37 (c)). -/
def rdataAfter (b : BlockPos) : RdataPos → State → State
  | .dir, s => goto b (.rdata .nRD) { s with readRun := true }
  | .nRD, s => goto b (.rdata .lo) s
  | .lo, s => goto b (.rdata .hi) s
  | .hi, s => goto b (.rdata .smp) s
  | .smp, s =>
    if s.regs.k.toNat < 3 then { s with seq := .run b (.rdata .lo), regs := { s.regs with k := s.regs.k + 1 } }
    else afterCall b s

/-- One step of RDATA at a position. -/
def rdataStep (b : BlockPos) (p : RdataPos) (s : State) : State := rdataAfter b p (perform (rdataAction p) s)

/-- RDATA (R170). -/
def execRdata (s : State) : Host.Outcome State Fault Refusal :=
  match s.seq with
  | .run b (.rdata p) => .next (rdataStep b p s)
  | .idle => .refused .notCalled
  | .run _ (.addr _) => .refused .overlap
  | .run _ (.wdata _) => .refused .overlap
  | .run _ (.rfin _) => .refused .overlap
  | .finish => .refused .overlap

/-! ### RFIN (R174) -/

/-- The action at each position of RFIN. -/
def rfinAction : RfinPos → Action
  | .clk => .pin .clk false
  | .nRD => .pin .nRD true
  | .dir => .dir .out
  | .wait => .sampleNWait

/-- What follows a position of RFIN once its action is done. The read run is closed when the wait is over (R72). -/
def rfinAfter (b : BlockPos) : RfinPos → State → State
  | .clk, s => goto b (.rfin .nRD) s
  | .nRD, s => goto b (.rfin .dir) s
  | .dir, s => goto b (.rfin .wait) (enterWait s)
  | .wait, s => afterCall b { s with readRun := false }

/-- One step of RFIN at a position. -/
def rfinStep (b : BlockPos) (p : RfinPos) (s : State) : State :=
  if p = .wait then waitStep .rfin (rfinAfter b .wait) s else rfinAfter b p (perform (rfinAction p) s)

/-- RFIN (R174). -/
def execRfin (s : State) : Host.Outcome State Fault Refusal :=
  match s.seq with
  | .run b (.rfin p) => .next (rfinStep b p s)
  | .idle => .refused .notCalled
  | .run _ (.addr _) => .refused .overlap
  | .run _ (.wdata _) => .refused .overlap
  | .run _ (.rdata _) => .refused .overlap
  | .finish => .refused .overlap

end Sys2Proof.Machine
end

