-- ==== Sys2Proof/Machine/Dispatch.lean ====
section
/-! DEFINITION. One arm per operation of 30_encoding.md R100. -/

namespace Sys2Proof.Machine

def exec (i : Instr) (s : State) : Host.Outcome State Fault Refusal :=
  match i with
  | .poke addr n => Sys2Proof.Machine.execPoke addr n s
  | .peek addr n => Sys2Proof.Machine.execPeek addr n s
  | .addr a => Sys2Proof.Machine.execAddr a s
  | .wdata w => Sys2Proof.Machine.execWdata w s
  | .rdata => Sys2Proof.Machine.execRdata s
  | .rfin => Sys2Proof.Machine.execRfin s

end Sys2Proof.Machine
end

