-- ==== Sys2Proof/Machine/Sequencer.lean ====
section
/-! DEFINITION. What the next step does: whose move it is (00_scope.md R10, 40_pin_actions.md R141), which instruction the
sequencer runs, and the moves that run none. -/

namespace Sys2Proof.Machine

/-- The next step: run an instruction, rest in a state without running one, or stop. -/
inductive Move where
  | run (i : Instr) (s : State)
  | rest (s : State)
  | stop (r : Refusal)
deriving DecidableEq, Repr

/-- The primitive that a position belongs to, with its operand in the working registers (R162, R166). -/
def primInstr (r : Regs) : PrimPos → Instr
  | .addr _ => .addr r.a
  | .wdata _ => .wdata r.w
  | .rdata _ => .rdata
  | .rfin _ => .rfin

/-- The port at IDLE: an offer is decoded; an illegal one is refused with CONTRACT (R113, R213); with none the engine
holds its pins (R227, R242). -/
def portMove (s : State) : Move :=
  match s.port with
  | [] => .rest s
  | o :: _ =>
    match decodeDescriptor o.desc with
    | .ok i => .run i s
    | .error _ => .rest (refuseContract s)

/-- The engine's move (R28): an offer is looked at only when BUSY = 0 (R29). -/
def engineMove (s : State) : Move :=
  match s.seq with
  | .idle => if s.busy then .rest s else portMove s
  | .run _ p => .run (primInstr s.regs p) s
  | .finish => .rest (endCommand s)

/-- A handler's write (R141): OWM and pins outside the bus; anything else is 93 U10. -/
def handlerMove (w : HandlerWrite) (s : State) : Move :=
  match w with
  | .owm m => .rest { s with owm := m }
  | .otherPins v => .rest { s with otherPins := v }
  | .busLine _ _ => .stop .handlerTouchesBus
  | .dataDir _ => .stop .handlerTouchesBus
  | .leaveInhibited => .stop .handlerTouchesBus

/-- The platform sets the configuration, while BUSY = 0 (R33, 93 U14). -/
def configureMove (bound : Option Nat) (clkLow : Bool) (s : State) : Move :=
  if s.busy || !boundOk bound then .stop .badConfiguration
  else .rest { s with waitBound := bound, rfinClkLow := clkLow }

/-- The next move: the engine's when none is lined up; a handler waits while IRQ_INHIBIT = 1 and the engine moves
meanwhile (R141, R219). -/
def nextMove (s : State) : Move :=
  match s.turns with
  | [] => engineMove s
  | .engine :: ts => engineMove { s with turns := ts }
  | .handler w :: ts => if s.irqInhibit then engineMove s else handlerMove w { s with turns := ts }
  | .configure b c :: ts => configureMove b c { s with turns := ts }

/-- The port is ready and a descriptor stands there alone, with a source of 2^32 words and as much room, the engine to
move (log 13). -/
def offerNext (d : Descriptor) (s : State) : State :=
  { s with
    seq := .idle
    busy := false
    turns := []
    port := [{ desc := d, src := [], srcCount := 2 ^ 32, room := 2 ^ 32 }] }

/-- A command in flight, `op` for `n` words and none transferred yet, has come to a call: the engine to move, and the levels, the
mask and the responder's side as the phases before a call leave them (R176, R84; log 24). -/
def atCall (op : Op) (n : Count) (s : State) : State :=
  { s with
    busy := true
    turns := []
    irqInhibit := false
    readRun := false
    pins := { clk := false, nRD := true, start := false, dir := .out, dout := s.pins.dout }
    regs := { s.regs with op := op, i := 0, n := n }
    fix := { s.fix with drive := none } }

/-- A state in which the very next step fetches the instruction whose `nbits` bits are `w`: a descriptor at the command port; for a
wire row, which the host cannot issue (R100, R118), a command in flight at its call of that primitive (log 24). -/
def fetchNext (s : State) (nbits w : Nat) : State :=
  if nbits = 128 then offerNext (BitVec.ofNat 128 w) s
  else
    match decodeBits nbits w with
    | .ok (.addr a) => callAddr .head { atCall .poke 1 s with regs := { (atCall .poke 1 s).regs with a := a } }
    | .ok (.wdata v) => callWdata .xfer v (atCall .poke 1 s)
    | .ok .rdata => callRdata .xfer (atCall .peek 1 s)
    | .ok .rfin => callRfin .last (atCall .peek 0 s)
    | .ok (.poke _ _) => s
    | .ok (.peek _ _) => s
    | .error _ => s

end Sys2Proof.Machine
end

