-- ==== Sys2Proof/Safety.lean ====
section
/-! DEFINITION. What a good state of the machine is: the invariant that every step keeps (the order of the primitives of R190 and
R191, the pin levels of 41_phase_primitives.md, the critical section of R30, R32 and R219, the canonical form of the data), and the
two relations of the engine with the reference responder (the mirror of R37 (a), and the words already transferred, R89). -/

namespace Sys2Proof.Machine

/-- The positions between the write that raises IRQ_INHIBIT and the one that lowers it (R219). -/
def primInhibited : PrimPos → Bool
  | .addr p => p == .ce2 || p == .ce3 || p == .drv || p == .hi || p == .lo || p == .cx1 || p == .cx2
  | .wdata p => p == .ce2 || p == .ce3 || p == .drv || p == .hi || p == .lo || p == .cx1 || p == .cx2
  | .rdata _ => false
  | .rfin _ => false

/-- The positions at which `OWM = M_BUS` (R137, R138). -/
def primMasked : PrimPos → Bool
  | .addr p => p == .drv || p == .hi || p == .lo || p == .cx1
  | .wdata p => p == .drv || p == .hi || p == .lo || p == .cx1
  | .rdata _ => false
  | .rfin _ => false

/-- IRQ_INHIBIT as R219 has it for a sequencer position. -/
def seqInhibited : Seq → Bool
  | .idle => false
  | .run _ p => primInhibited p
  | .finish => false

/-- Whether the bus mask is in OWM at a sequencer position. -/
def seqMasked : Seq → Bool
  | .idle => false
  | .run _ p => primMasked p
  | .finish => false

/-- The platform's own mask: what OWM holds outside critical sections, OWM_SAVED inside (R32). -/
def platformMask (s : State) : PinSet := if seqMasked s.seq then s.owmSaved else s.owm

/-- Block position, primitive and working registers fit together as in R190, R191 and R193. -/
def blockOk (b : BlockPos) (p : PrimPos) (r : Regs) : Bool :=
  match b, p, r.op with
  | .head, .addr _, .poke => decide (r.i < r.n) && (r.i == 0 || pageStart r.a)
  | .head, .addr _, .peek => r.i == 0
  | .close, .rfin _, .peek => decide (r.i < r.n) && r.i != 0 && pageStart r.a
  | .resend, .addr _, .peek => decide (r.i < r.n) && r.i != 0 && pageStart r.a
  | .xfer, .wdata _, .poke => decide (r.i < r.n)
  | .xfer, .rdata _, .peek => decide (r.i < r.n)
  | .last, .rfin _, .peek => r.i == r.n
  | _, _, _ => false

/-- The bus is in read mode or in write mode (R37 (c), R176). -/
def modeOk (readRun : Bool) (q : Pins) : Bool :=
  if readRun then !q.nRD && q.dir == .inp else q.nRD && q.dir == .out

/-- The levels at a position of ADDR (R162, R163). -/
def addrPinsOk (p : AddrPos) (r : Regs) (q : Pins) : Bool :=
  match p with
  | .nRD => r.k == 0
  | .start => r.k == 0 && q.nRD
  | .dir => r.k == 0 && q.nRD && q.start
  | .wait => r.k == 0 && q.nRD && q.start && q.dir == .out
  | .ce1 => r.k == 0 && q.nRD && q.start && q.dir == .out
  | .ce2 => r.k == 0 && q.nRD && q.start && q.dir == .out
  | .ce3 => r.k == 0 && q.nRD && q.start && q.dir == .out
  | .drv => decide (r.k.toNat ≤ 4) && q.nRD && q.dir == .out && (q.start == decide (r.k.toNat ≤ 1)) && (r.k == 0 || !q.clk)
  | .hi => decide (r.k.toNat ≤ 4) && q.nRD && q.dir == .out && (q.start == (r.k == 0)) && q.dout == muxByte r.a r.k.toNat
  | .lo => decide (r.k.toNat ≤ 4) && q.nRD && q.dir == .out && (q.start == (r.k == 0)) && q.dout == muxByte r.a r.k.toNat && q.clk
  | .cx1 => q.nRD && q.dir == .out && !q.start && !q.clk && q.dout == muxByte r.a 4
  | .cx2 => q.nRD && q.dir == .out && !q.start && !q.clk && q.dout == muxByte r.a 4

/-- The levels at a position of WDATA (R166, R167). -/
def wdataPinsOk (p : WdataPos) (r : Regs) (q : Pins) : Bool :=
  q.nRD && q.dir == .out && !q.start &&
  match p with
  | .nRD => r.k == 0 && !q.clk
  | .start => r.k == 0 && !q.clk
  | .dir => r.k == 0 && !q.clk
  | .ce1 => r.k == 0 && !q.clk
  | .ce2 => r.k == 0 && !q.clk
  | .ce3 => r.k == 0 && !q.clk
  | .drv => decide (r.k.toNat ≤ 3) && !q.clk
  | .hi => decide (r.k.toNat ≤ 3) && q.dout == muxByte r.w r.k.toNat && !q.clk
  | .lo => decide (r.k.toNat ≤ 3) && q.dout == muxByte r.w r.k.toNat && q.clk
  | .cx1 => !q.clk && q.dout == muxByte r.w 3
  | .cx2 => !q.clk && q.dout == muxByte r.w 3
  | .wait => !q.clk && q.dout == muxByte r.w 3

/-- The levels at a position of RDATA (R170, R171); START is 0 in every read (R104). -/
def rdataPinsOk (p : RdataPos) (readRun : Bool) (r : Regs) (q : Pins) : Bool :=
  !q.start &&
  match p with
  | .dir => r.k == 0 && modeOk readRun q && (q.clk == readRun)
  | .nRD => r.k == 0 && readRun && q.dir == .inp
  | .lo => decide (r.k.toNat ≤ 3) && readRun && !q.nRD && q.dir == .inp
  | .hi => decide (r.k.toNat ≤ 3) && readRun && !q.nRD && q.dir == .inp && !q.clk
  | .smp => decide (r.k.toNat ≤ 3) && readRun && !q.nRD && q.dir == .inp && q.clk

/-- The levels at a position of RFIN (R174); a read has run unless the command reads no word (R175). -/
def rfinPinsOk (p : RfinPos) (readRun clkLow : Bool) (r : Regs) (q : Pins) : Bool :=
  !q.start && (readRun == (r.i != 0)) &&
  match p with
  | .clk => clkLow && modeOk readRun q && (q.clk == readRun)
  | .nRD => modeOk readRun q && (q.clk == (readRun && !clkLow))
  | .dir => q.nRD && (q.clk == (readRun && !clkLow))
  | .wait => q.nRD && q.dir == .out && (q.clk == (readRun && !clkLow))

/-- Whether a position's levels, beat number and read run are as the rules of 41_phase_primitives.md leave them. -/
def primOk (p : PrimPos) (s : State) : Bool :=
  match p with
  | .addr p => !s.readRun && addrPinsOk p s.regs s.pins
  | .wdata p => !s.readRun && wdataPinsOk p s.regs s.pins
  | .rdata p => rdataPinsOk p s.readRun s.regs s.pins
  | .rfin p => rfinPinsOk p s.readRun s.rfinClkLow s.regs s.pins

/-- The sequencer position and everything that goes with it. -/
def placeOk (s : State) : Bool :=
  match s.seq with
  | .idle => !s.readRun
  | .run b p => blockOk b p s.regs && primOk p s
  | .finish => !s.readRun && s.regs.i == s.regs.n

/-- OWM_SAVED holds the platform's mask when the bus mask is about to be written (R137). -/
def saveOk (s : State) : Bool :=
  match s.seq with
  | .run _ (.addr .ce3) => s.owmSaved == s.owm
  | .run _ (.wdata .ce3) => s.owmSaved == s.owm
  | _ => true

/-- A WAIT position. -/
def isWait : Seq → Bool
  | .run _ p => p == .addr .wait || p == .wdata .wait || p == .rfin .wait
  | .idle => false
  | .finish => false

/-- POLLS does not pass the bound (R139). -/
def pollsOk (s : State) : Bool :=
  match s.waitBound with
  | none => true
  | some b => !isWait s.seq || decide (s.regs.polls ≤ b)

/-- The record of DEST is kept in rising index order. -/
def destWf (d : List (Nat × Word)) : Bool :=
  match d with
  | [] => true
  | (i, _) :: r => r.all (fun c => decide (i < c.1)) && destWf r

/-- A good state of the engine. -/
structure Inv (s : State) : Prop where
  memory : Memory.wf s.fix.mem = true
  dest : destWf s.dest = true
  bound : boundOk s.waitBound = true
  busy : s.busy = (s.seq != .idle)
  inhibit : s.irqInhibit = seqInhibited s.seq
  mask : seqMasked s.seq = true → s.owm = mBus
  save : saveOk s = true
  polls : pollsOk s = true
  drive : s.env = .fixture → s.pins.nRD = true → s.fix.drive = none
  place : placeOk s = true

/-! ### The engine and the reference responder -/

/-- The low `k` bytes agree. -/
def lowBytesEq {w : Nat} (k : Nat) (u v : BitVec w) : Bool := (List.range k).all fun j => muxByte u j == muxByte v j

/-- In the beats of ADDR the responder has taken as many address bytes as have been pulsed (R80, R86). -/
def addrSynced (p : AddrPos) (r : Regs) (f : Fixture) : Bool :=
  if p == .drv || p == .hi || p == .lo then
    r.k == 0 || (f.abytes.val == r.k.toNat && f.wcnt == 0 && lowBytesEq r.k.toNat f.ptr r.a)
  else if p == .cx1 || p == .cx2 then f.abytes == 0 && f.wcnt == 0 && f.ptr == r.a
  else true

/-- In WDATA the pointer is A until the fourth byte is latched; then the word is in memory (R80, R81, R86). -/
def wdataSynced (p : WdataPos) (src : List Word) (r : Regs) (f : Fixture) : Bool :=
  f.abytes == 0 && r.w == srcAt src r.i.toNat &&
  (if p == .cx1 || p == .cx2 || p == .wait then f.wcnt == 0 && f.ptr == advancePtr r.a && readWord f.mem r.a == r.w
   else if p == .drv || p == .hi || p == .lo then f.wcnt.val == r.k.toNat && f.ptr == r.a && lowBytesEq r.k.toNat f.sh r.w
   else f.wcnt == 0 && f.ptr == r.a)

/-- In RDATA the pointer is A until the fourth byte is presented; the bytes sampled are the word's (R82, R87). -/
def rdataSynced (p : RdataPos) (q : Pins) (r : Regs) (f : Fixture) : Bool :=
  match p with
  | .dir => f.ptr == r.a && (q.nRD || f.rcnt == 0)
  | .nRD => f.ptr == r.a && (q.nRD || f.rcnt == 0)
  | .lo => f.ptr == r.a && f.rcnt.val == r.k.toNat && lowBytesEq r.k.toNat r.w (readWord f.mem r.a)
  | .hi => f.ptr == r.a && f.rcnt.val == r.k.toNat && lowBytesEq r.k.toNat r.w (readWord f.mem r.a)
  | .smp => f.drive == some (muxByte (readWord f.mem r.a) r.k.toNat) && lowBytesEq r.k.toNat r.w (readWord f.mem r.a) &&
      (if r.k.toNat == 3 then f.ptr == advancePtr r.a && f.rcnt == 0 else f.ptr == r.a && f.rcnt.val == r.k.toNat + 1)

/-- The engine's A is an exact mirror of the reference responder's pointer (R37 (a)), and the bytes under way agree. -/
def Synced (s : State) : Prop :=
  s.env = .fixture →
    match s.seq with
    | .idle => True
    | .run _ (.addr p) => addrSynced p s.regs s.fix = true
    | .run _ (.wdata p) => wdataSynced p s.src s.regs s.fix = true
    | .run _ (.rdata p) => rdataSynced p s.pins s.regs s.fix = true
    | .run _ (.rfin _) => True
    | .finish => True

/-- The base address of the command in flight: while word I is transferred, A = trunc_40(addr + I) (R192). -/
def baseAddress (r : Regs) : Address := r.a - r.i.setWidth 40

/-- The words before I are where the command puts them (R89, R197): in the reference responder's memory for POKE, in DEST
for PEEK. -/
def Transferred (s : State) : Prop :=
  s.env = .fixture → s.seq ≠ .idle → ∀ j < s.regs.i.toNat,
    match s.regs.op with
    | .poke => readWord s.fix.mem (baseAddress s.regs + BitVec.ofNat 40 j) = srcAt s.src j
    | .peek => destRead s.dest j = some (readWord s.fix.mem (baseAddress s.regs + BitVec.ofNat 40 j))

/-! ### Words that statements use -/

/-- `k` steps of the machine lead from `s` to `t`. -/
def runsTo (k : Nat) (s t : State) : Prop := Host.Core.run Sys2Proof.core k s = .next t

/-- Every byte of the remote space reads as before. -/
def SameMemory (s t : State) : Prop := ∀ key : Nat, readByte t.fix.mem key = readByte s.fix.mem key

/-- Every byte of the remote space outside the word at the responder's pointer reads as before. -/
def SameMemoryOutsidePointer (s t : State) : Prop :=
  ∀ key : Nat, key < byteKey s.fix.ptr 0 ∨ byteKey s.fix.ptr 3 < key → readByte t.fix.mem key = readByte s.fix.mem key

/-- What no action of a primitive writes: the pins outside the bus, STATUS, the configuration, the host's side of the ports,
which responder it is, and the moves lined up. -/
structure FrameOfAnAction (s t : State) : Prop where
  otherPins : t.otherPins = s.otherPins
  status : t.status = s.status
  waitBound : t.waitBound = s.waitBound
  rfinClkLow : t.rfinClkLow = s.rfinClkLow
  port : t.port = s.port
  src : t.src = s.src
  env : t.env = s.env
  turns : t.turns = s.turns

/-- The reference responder is about to latch the fourth byte of the word `w` (R86): CLK is high in a write-type beat with that byte
on the wires, no address is in progress, three bytes of the word are in. -/
structure LastByteOf (w : Word) (s : State) : Prop where
  env : s.env = .fixture
  levels : s.pins = { clk := true, nRD := true, start := false, dir := .out, dout := w.extractLsb' 24 8 }
  drive : s.fix.drive = none
  abytes : s.fix.abytes = 0
  wcnt : s.fix.wcnt = 3
  bytes : s.fix.sh.extractLsb' 0 24 = w.extractLsb' 0 24
  memory : Memory.wf s.fix.mem = true

/-- A machine at rest with one command offered, the engine to move. -/
structure Offering (o : Offer) (s : State) : Prop where
  seq : s.seq = .idle
  busy : s.busy = false
  turns : s.turns = []
  port : s.port = [o]

/-- The offer is the descriptor of this command (R110, R111). -/
def IsPoke (o : Offer) (addr : HostAddress) (n : Count) : Prop :=
  o.desc = mkDescriptor 0x01 n addr

/-- The offer is the descriptor of this command (R110, R111). -/
def IsPeek (o : Offer) (addr : HostAddress) (n : Count) : Prop :=
  o.desc = mkDescriptor 0x02 n addr

/-- The always-ready reference responder: `delay(j) = 0` for all `j` (R88). -/
def AlwaysReady (s : State) : Prop := s.env = .fixture ∧ ∀ j, scriptDelay s.fix.script j = some 0

/-- P of R194: how many address phases `n` words from `addr` take; 1 for `n = 0`, which is what PEEK sends then (R195). -/
def addressPhases (addr : HostAddress) (n : Count) : Nat := 1 + (addr.toNat % 256 + n.toNat - 1) / 256

end Sys2Proof.Machine
end

