-- ==== Sys2Proof/Certificates/Slice0/Obligations.lean ====
section
/-! DEFINITION. The statements about this model, for the provers. Each docstring says which rule of spec/ it formalises, or which
entry of the assumption log it rests on. -/

open Sys2Proof Sys2Proof.Machine

/-! ### Encoding -/

/-- R102 to R105, R110, R111, R118: decoding the code of an operation gives the operation back, every operand at every value. -/
def Obligations.DecodeOfEncodeIsTheInstruction : Prop :=
  ∀ i : Instr, decodeTableWord (codeWidth i) (encode i) = some i

/-- R111, R118: every code has the match value of its row under the row's mask (opcode_table.json). -/
def Obligations.EncodeMatchesTheOpcodeTable : Prop :=
  ∀ i : Instr,
    match i with
    | .poke _ _ => encode i &&& 0xFFFFFFFF000000000000000000000000 = 0x01000000000000000000000000000000
    | .peek _ _ => encode i &&& 0xFFFFFFFF000000000000000000000000 = 0x02000000000000000000000000000000
    | .addr _ => encode i &&& 0x300C0300C0300 = 0x3008020080200
    | .wdata _ => encode i &&& 0xC0300C0300 = 0x8020080200
    | .rdata => encode i &&& 0xC0300C0300 = 0x0000000000
    | .rfin => encode i &&& 0x3 = 0x2

/-- Vectors E1, E2, E6, E8, E10, E12, E13, E14 of 95_test_vectors.md, and the control levels 10 of RFIN (R118). That the 50 bits of E12
stand in 56 and the 2 bits of RFIN in 8, filled up with zeros to whole bytes, is the model's choice (log 20, DESIGN CHOICE). -/
def Obligations.DecodedWordsOfTheSpec : Prop :=
  decodeTableWord 128 0x01000000000000010000000102030405 = some (.poke 0x0102030405 1) ∧
  decodeTableWord 128 0x02000000000000010000000102030405 = some (.peek 0x0102030405 1) ∧
  decodeTableWord 128 0x0100000000000001ABCDEF0102030405 = some (.poke 0xABCDEF0102030405 1) ∧
  decodeTableWord 128 0 = none ∧
  decodeTableWord 128 0x01000001000000010000000000000000 = none ∧
  decodeTableWord 56 0b11000001011000000100100000001110000000101000000001 = some (.addr 0x0102030405) ∧
  decodeTableWord 40 0b1001111000100101011010001101001000010010 = some (.wdata 0x12345678) ∧
  decodeTableWord 40 0b0001111000000101011000001101000000010010 = some .rdata ∧
  decodeTableWord 8 0b10 = some .rfin

/-- R107: on the wire an address phase and the words after it read back as that address and those words: a 10xxxxxxxx symbol is an
address byte or a data byte by the number of beats since the last START = 1. -/
def Obligations.WireStreamSeparatesAddressFromData : Prop :=
  ∀ (a : Address) (ws : List Word),
    decodeWire ⟨[], [], []⟩ (wireSymbols (.addr a) ++ ws.flatMap (fun w => wireSymbols (.wdata w))) =
      some (.address a :: ws.map .wrote)

/-- R100: what a 128-bit descriptor decodes to is a command; the host cannot issue a primitive. -/
def Obligations.DescriptorsHoldOnlyCommands : Prop :=
  ∀ (w : Nat) (i : Instr), decodeBits 128 w = .ok i → i.isCommand = true

/-! ### Accept and refusal of commands -/

/-- R113, R213 (a): a descriptor with another OPC, or with RSV not 0, is refused at accept: STATUS is CONTRACT, BUSY stays 0, and
nothing else changes but that the offer leaves the port (the model's rendering, log 13). -/
def Obligations.IllegalDescriptorIsRefused : Prop :=
  ∀ (s : State) (o : Offer) (rest : List Offer) (d : Descriptor),
    s.turns = [] → s.seq = .idle → s.busy = false → s.port = o :: rest → o.desc = d →
    (descRsv d ≠ 0 ∨ (descOpc d ≠ 0x01 ∧ descOpc d ≠ 0x02)) →
    step s = .next { s with status := { code := 2, place := 3, index := 0, addr := 0 }, port := rest }

/-- R190 (accept), R193: a POKE with words to write is accepted: BUSY, OP, A, N, I are written, the sequencer stands at the first
action of ADDR; every other part of the state, memory and pins among them, is as before. Two clauses are the model's, not R190's: the
offer leaves the port (log 13, DESIGN CHOICE), and its source words are bound to the command (log 18, DEDUCED). -/
def Obligations.PokeIsAccepted : Prop :=
  ∀ (addr : HostAddress) (n : Count) (s : State),
    s.seq = .idle → s.busy = false → n.toNat ≤ offeredSrcCount s → n ≠ 0 →
    exec (.poke addr n) s = .next { s with
      busy := true
      regs := { s.regs with op := .poke, a := addr.extractLsb' 0 40, n := n, i := 0, k := 0 }
      src := offeredSrc s
      port := s.port.tail
      seq := .run .head (.addr .nRD) }

/-- R191 (accept), R195: a PEEK is accepted, also one of no words, and its address phase comes first. Two clauses are the model's, not
the rules': the offer leaves the port (log 13, DESIGN CHOICE), and its source words are bound, though a PEEK reads none (log 18,
DEDUCED). -/
def Obligations.PeekIsAccepted : Prop :=
  ∀ (addr : HostAddress) (n : Count) (s : State),
    s.seq = .idle → s.busy = false → n.toNat ≤ offeredRoom s →
    exec (.peek addr n) s = .next { s with
      busy := true
      regs := { s.regs with op := .peek, a := addr.extractLsb' 0 40, n := n, i := 0, k := 0 }
      src := offeredSrc s
      port := s.port.tail
      seq := .run .head (.addr .nRD) }

/-- R112, R213 (a): too few source words for a POKE, too little room for a PEEK: CONTRACT, no pin action, BUSY stays 0. That
the refused offer leaves the port is the model's choice (log 13, DESIGN CHOICE; a real port might keep it). -/
def Obligations.ShortBuffersAreRefused : Prop :=
  ∀ (addr : HostAddress) (n : Count) (s : State), s.seq = .idle → s.busy = false →
    (offeredSrcCount s < n.toNat → exec (.poke addr n) s =
      .next { s with status := { code := 2, place := 3, index := 0, addr := 0 }, port := s.port.tail }) ∧
    (offeredRoom s < n.toNat → exec (.peek addr n) s =
      .next { s with status := { code := 2, place := 3, index := 0, addr := 0 }, port := s.port.tail })

/-- R195: POKE with n = 0 performs no action at all: BUSY rises and falls, the pins, OWM, IRQ_INHIBIT, DEST, memory and the responder's
inputs are untouched, STATUS is OK. That accept and end are one step each is log 1 (DEDUCED), that the offer leaves the port log 13
(DESIGN CHOICE), that its source words are bound log 18 (DEDUCED). -/
def Obligations.PokeOfNoWordsTouchesNothing : Prop :=
  ∀ (addr : HostAddress) (s : State) (o : Offer), Offering o s → IsPoke o addr 0 →
    ∃ t u, runsTo 1 s t ∧ t.busy = true ∧ t.pins = s.pins ∧ runsTo 2 s u ∧
      u = { s with
        status := { code := 0, place := 0, index := 0, addr := 0 }
        regs := { s.regs with op := .poke, a := addr.extractLsb' 0 40, n := 0, i := 0 }
        src := o.src
        port := [] }

/-- R213 (b), R29: while BUSY = 1 no offer is taken, whatever the step does. -/
def Obligations.OffersWaitWhileBusy : Prop :=
  ∀ s t : State, s.busy = true → step s = .next t → t.port = s.port

/-- 93 U1, R160: an instruction issued while another is in flight is refused (log 14, DEDUCED). -/
def Obligations.OverlapIsRefused : Prop :=
  ∀ s : State,
    (∀ addr n, s.busy = true ∨ s.seq ≠ .idle →
      exec (.poke addr n) s = .refused .overlap ∧ exec (.peek addr n) s = .refused .overlap) ∧
    (s.seq = .finish →
      (∀ a, exec (.addr a) s = .refused .overlap) ∧ (∀ w, exec (.wdata w) s = .refused .overlap) ∧
      exec .rdata s = .refused .overlap ∧ exec .rfin s = .refused .overlap) ∧
    (∀ b p, s.seq = .run b p →
      ((∀ q, p ≠ .addr q) → ∀ a, exec (.addr a) s = .refused .overlap) ∧
      ((∀ q, p ≠ .wdata q) → ∀ w, exec (.wdata w) s = .refused .overlap) ∧
      ((∀ q, p ≠ .rdata q) → exec .rdata s = .refused .overlap) ∧
      ((∀ q, p ≠ .rfin q) → exec .rfin s = .refused .overlap))

/-! ### Steps -/

/-- R28: a step runs the primitive in flight with its operand in A or W, and adds nothing to it. With BUSY = 0 it runs the command that
the descriptor at the port decodes to; the port as a queue of offers is log 13 (DESIGN CHOICE). The word that `withFetchWord` places is
run by the next step: a descriptor from the port (log 13), a wire row from the call of a command in flight (log 24, DESIGN CHOICE). -/
def Obligations.StepRunsTheDecodedInstruction : Prop :=
  (∀ (s : State) (o : Offer) (rest : List Offer) (i : Instr),
    s.turns = [] → s.seq = .idle → s.busy = false → s.port = o :: rest → decodeDescriptor o.desc = .ok i →
    step s = exec i s) ∧
  (∀ (s : State) (b : BlockPos) (p : PrimPos), s.turns = [] → s.seq = .run b p →
    step s = exec (match p with
      | .addr _ => .addr s.regs.a
      | .wdata _ => .wdata s.regs.w
      | .rdata _ => .rdata
      | .rfin _ => .rfin) s) ∧
  (∀ (s : State) (nbits w : Nat) (i : Instr), decodeTableWord nbits w = some i →
    step (s.withFetchWord nbits w) = exec i (s.withFetchWord nbits w))

/-- R28, R210: with no foreign move lined up the engine always has a next state: it waits, hangs or goes on, it never stops. R227, R242:
at IDLE with nothing offered it waits for a command and holds its pins, and a step leaves the whole state as it is. -/
def Obligations.EngineAlwaysHasANextState : Prop :=
  ∀ s : State, s.turns = [] → (∃ t, step s = .next t) ∧ (s.seq = .idle → s.port = [] → step s = .next s)

/-! ### The actions of the primitives -/

/-- R162, R161, R163: at every position of ADDR but its wait, exec performs that position's one action, writes nothing else, and the
sequencer goes to the next position (after the last, to the line after the call). Memory can change only at `B(k).LO`, under the
responder's pointer, when a responder takes the beat for a data byte. -/
def Obligations.AddrPerformsThePositionsAction : Prop :=
  ∀ (a : Address) (b : BlockPos) (p : AddrPos) (s : State),
    s.seq = .run b (.addr p) → p ≠ .wait → (p = .drv → s.owm = mBus) →
    ∃ t, exec (.addr a) s = .next t ∧
      t.pins = (match p with
        | .nRD => { s.pins with nRD := true }
        | .start => { s.pins with start := true }
        | .dir => { s.pins with dir := .out }
        | .drv => { s.pins with dout := a.extractLsb' (8 * s.regs.k.toNat) 8, start := s.regs.k == 0 }
        | .hi => { s.pins with clk := true }
        | .lo => { s.pins with clk := false }
        | _ => s.pins) ∧
      t.irqInhibit = (match p with | .ce1 => true | .cx2 => false | _ => s.irqInhibit) ∧
      t.owmSaved = (match p with | .ce2 => s.owm | _ => s.owmSaved) ∧
      t.owm = (match p with | .ce3 => mBus | .cx1 => s.owmSaved | _ => s.owm) ∧
      t.seq = (match p with
        | .nRD => .run b (.addr .start)
        | .start => .run b (.addr .dir)
        | .dir => .run b (.addr .wait)
        | .wait => s.seq
        | .ce1 => .run b (.addr .ce2)
        | .ce2 => .run b (.addr .ce3)
        | .ce3 => .run b (.addr .drv)
        | .drv => .run b (.addr .hi)
        | .hi => .run b (.addr .lo)
        | .lo => if s.regs.k.toNat < 4 then .run b (.addr .drv) else .run b (.addr .cx1)
        | .cx1 => .run b (.addr .cx2)
        | .cx2 => (afterCall b s).seq) ∧
      t.busy = s.busy ∧
      (p ≠ .cx2 → t.dest = s.dest ∧
        t.regs = { s.regs with
          k := if p = .lo ∧ s.regs.k.toNat < 4 then s.regs.k + 1 else s.regs.k
          polls := if p = .dir ∧ s.waitBound ≠ none then 0 else s.regs.polls }) ∧
      (p = .cx2 → t.dest = (afterCall b s).dest ∧ t.regs = (afterCall b s).regs) ∧
      t.readRun = s.readRun ∧ t.oracle = s.oracle ∧ FrameOfAnAction s t ∧
      (p ≠ .lo → SameMemory s t) ∧ SameMemoryOutsidePointer s t

/-- R166, R161: the same for WDATA. With the falling edge of the last beat the reference responder, three bytes of the word in, stores
the word at its pointer and advances the pointer inside the page (R86). -/
def Obligations.WdataPerformsThePositionsAction : Prop :=
  ∀ (w : Word) (b : BlockPos) (p : WdataPos) (s : State),
    s.seq = .run b (.wdata p) → p ≠ .wait → (p = .drv → s.owm = mBus) →
    ∃ t, exec (.wdata w) s = .next t ∧
      t.pins = (match p with
        | .nRD => { s.pins with nRD := true }
        | .start => { s.pins with start := false }
        | .dir => { s.pins with dir := .out }
        | .drv => { s.pins with dout := w.extractLsb' (8 * s.regs.k.toNat) 8, start := false }
        | .hi => { s.pins with clk := true }
        | .lo => { s.pins with clk := false }
        | _ => s.pins) ∧
      t.irqInhibit = (match p with | .ce1 => true | .cx2 => false | _ => s.irqInhibit) ∧
      t.owmSaved = (match p with | .ce2 => s.owm | _ => s.owmSaved) ∧
      t.owm = (match p with | .ce3 => mBus | .cx1 => s.owmSaved | _ => s.owm) ∧
      t.seq = (match p with
        | .nRD => .run b (.wdata .start)
        | .start => .run b (.wdata .dir)
        | .dir => .run b (.wdata .ce1)
        | .ce1 => .run b (.wdata .ce2)
        | .ce2 => .run b (.wdata .ce3)
        | .ce3 => .run b (.wdata .drv)
        | .drv => .run b (.wdata .hi)
        | .hi => .run b (.wdata .lo)
        | .lo => if s.regs.k.toNat < 3 then .run b (.wdata .drv) else .run b (.wdata .cx1)
        | .cx1 => .run b (.wdata .cx2)
        | .cx2 => .run b (.wdata .wait)
        | .wait => s.seq) ∧
      t.busy = s.busy ∧ t.dest = s.dest ∧
      t.regs = { s.regs with
        k := if p = .lo ∧ s.regs.k.toNat < 3 then s.regs.k + 1 else s.regs.k
        polls := if p = .cx2 ∧ s.waitBound ≠ none then 0 else s.regs.polls } ∧
      (p = .lo → LastByteOf w s →
        readWord t.fix.mem s.fix.ptr = w ∧ t.fix.wcnt = 0 ∧
        t.fix.ptr = s.fix.ptr.extractLsb' 8 32 ++ (s.fix.ptr.extractLsb' 0 8 + 1)) ∧
      t.readRun = s.readRun ∧ t.oracle = s.oracle ∧ FrameOfAnAction s t ∧
      (p ≠ .lo → SameMemory s t) ∧ SameMemoryOutsidePointer s t

/-- R170, R161: the same for RDATA. It touches neither OWM nor IRQ_INHIBIT, it has no wait, and a sample writes byte K of W with what
the environment answers. After the last sample block control goes on with that W; at PEEK's line (R191) the word goes to DEST[I], A and I
count on, and K is 0 again if another word of the page is to be read. -/
def Obligations.RdataPerformsThePositionsAction : Prop :=
  ∀ (b : BlockPos) (p : RdataPos) (s : State), s.seq = .run b (.rdata p) →
    ∃ t, exec .rdata s = .next t ∧
      t.pins = (match p with
        | .dir => { s.pins with dir := .inp }
        | .nRD => { s.pins with nRD := false }
        | .lo => { s.pins with clk := false }
        | .hi => { s.pins with clk := true }
        | .smp => s.pins) ∧
      t.irqInhibit = s.irqInhibit ∧ t.owm = s.owm ∧ t.owmSaved = s.owmSaved ∧ FrameOfAnAction s t ∧
      (p ≠ .smp → t.busy = s.busy ∧ t.dest = s.dest ∧ t.regs = s.regs ∧ t.oracle = s.oracle ∧
        t.readRun = (s.readRun || p == .dir)) ∧
      (p = .smp → s.regs.k.toNat < 3 →
        t.regs = { s.regs with w := putByte s.regs.w s.regs.k.toNat (sampleData s).1, k := s.regs.k + 1 } ∧
        t.busy = s.busy ∧ t.dest = s.dest ∧ t.readRun = s.readRun) ∧
      (p = .smp → 3 ≤ s.regs.k.toNat →
        let u := { s with regs := { s.regs with w := putByte s.regs.w s.regs.k.toNat (sampleData s).1 } }
        t.regs = (afterCall b u).regs ∧ t.dest = (afterCall b u).dest ∧ t.busy = s.busy ∧ t.readRun = s.readRun) ∧
      (p = .smp → 3 ≤ s.regs.k.toNat → b = .xfer → s.regs.op = .peek →
        t.dest = destWrite s.dest s.regs.i.toNat (putByte s.regs.w s.regs.k.toNat (sampleData s).1) ∧
        t.regs = { s.regs with
          w := putByte s.regs.w s.regs.k.toNat (sampleData s).1
          a := s.regs.a + 1
          i := s.regs.i + 1
          k := if s.regs.i + 1 < s.regs.n ∧ (s.regs.i + 1 = 0 ∨ (s.regs.a + 1).extractLsb' 0 8 ≠ 0) then 0 else s.regs.k }) ∧
      t.seq = (match p with
        | .dir => .run b (.rdata .nRD)
        | .nRD => .run b (.rdata .lo)
        | .lo => .run b (.rdata .hi)
        | .hi => .run b (.rdata .smp)
        | .smp => if s.regs.k.toNat < 3 then .run b (.rdata .lo) else (afterCall b s).seq) ∧
      (s.pins.nRD = false ∨ p ≠ .lo → SameMemory s t) ∧ SameMemoryOutsidePointer s t

/-- R174: the same for RFIN. START, DOUT, OWM and IRQ_INHIBIT are untouched. -/
def Obligations.RfinPerformsThePositionsAction : Prop :=
  ∀ (b : BlockPos) (p : RfinPos) (s : State), s.seq = .run b (.rfin p) → p ≠ .wait →
    ∃ t, exec .rfin s = .next t ∧
      t.pins = (match p with
        | .clk => { s.pins with clk := false }
        | .nRD => { s.pins with nRD := true }
        | .dir => { s.pins with dir := .out }
        | .wait => s.pins) ∧
      t.irqInhibit = s.irqInhibit ∧ t.owm = s.owm ∧ t.owmSaved = s.owmSaved ∧ FrameOfAnAction s t ∧
      t.busy = s.busy ∧ t.dest = s.dest ∧ t.readRun = s.readRun ∧ t.oracle = s.oracle ∧
      t.regs = { s.regs with polls := if p = .dir ∧ s.waitBound ≠ none then 0 else s.regs.polls } ∧
      t.seq = (match p with
        | .clk => .run b (.rfin .nRD)
        | .nRD => .run b (.rfin .dir)
        | .dir => .run b (.rfin .wait)
        | .wait => s.seq) ∧
      (s.pins.nRD = false ∨ p ≠ .clk → SameMemory s t) ∧ SameMemoryOutsidePointer s t

/-- R100, R118, R160: the host cannot issue a primitive. With no command in flight the exec of each primitive is refused (log 2, DEDUCED),
and the step from IDLE, whatever stands at the port, writes no pin and opens no critical section: it holds the state, refuses the offer
with CONTRACT (which leaves the port, log 13), or runs a command. -/
def Obligations.PrimitivesRunOnlyWhenCalled : Prop :=
  ∀ s : State, s.seq = .idle →
    (∀ a, exec (.addr a) s = .refused .notCalled) ∧ (∀ w, exec (.wdata w) s = .refused .notCalled) ∧
    exec .rdata s = .refused .notCalled ∧ exec .rfin s = .refused .notCalled ∧
    (s.turns = [] →
      step s = .next s ∨
      step s = .next { s with status := { code := 2, place := 3, index := 0, addr := 0 }, port := s.port.tail } ∨
      ∃ i : Instr, i.isCommand = true ∧ step s = exec i s) ∧
    ∀ t, s.turns = [] → step s = .next t →
      t.pins = s.pins ∧ t.owm = s.owm ∧ t.owmSaved = s.owmSaved ∧ t.irqInhibit = s.irqInhibit ∧ t.dest = s.dest ∧ t.fix = s.fix ∧
      t.readRun = s.readRun

/-! ### The wait -/

/-- R139: a wait ends on the first sample of 1 and writes no pin: ADDR goes on to its critical section, WDATA and RFIN return. -/
def Obligations.WaitEndsOnASampleOfOne : Prop :=
  ∀ (b : BlockPos) (s : State), boundReached s = false → (sampleNWait s).1 = true →
    (s.seq = .run b (.addr .wait) → ∀ a, ∃ t, exec (.addr a) s = .next t ∧ t.seq = .run b (.addr .ce1) ∧
      t.pins = s.pins ∧ t.owm = s.owm ∧ t.owmSaved = s.owmSaved ∧ t.irqInhibit = s.irqInhibit ∧ t.regs = s.regs ∧
      t.busy = s.busy ∧ t.dest = s.dest ∧ t.readRun = s.readRun ∧ t.fix.mem = s.fix.mem ∧ FrameOfAnAction s t) ∧
    (s.seq = .run b (.wdata .wait) → ∀ w, ∃ t, exec (.wdata w) s = .next t ∧ t.seq = (afterCall b s).seq ∧
      t.pins = s.pins ∧ t.owm = s.owm ∧ t.owmSaved = s.owmSaved ∧ t.irqInhibit = s.irqInhibit ∧
      t.regs = (afterCall b s).regs ∧ t.busy = s.busy ∧ t.dest = (afterCall b s).dest ∧ t.readRun = s.readRun ∧
      t.fix.mem = s.fix.mem ∧ FrameOfAnAction s t) ∧
    (s.seq = .run b (.rfin .wait) → ∃ t, exec .rfin s = .next t ∧ t.seq = (afterCall b s).seq ∧
      t.pins = s.pins ∧ t.owm = s.owm ∧ t.owmSaved = s.owmSaved ∧ t.irqInhibit = s.irqInhibit ∧
      t.regs = (afterCall b s).regs ∧ t.busy = s.busy ∧ t.dest = (afterCall b s).dest ∧ t.readRun = false ∧
      t.fix.mem = s.fix.mem ∧ FrameOfAnAction s t)

/-- R139, R210: a sample of 0 leaves the engine at the WAIT position with nothing changed but POLLS, which exists when there is a bound
(R25), and what the environment keeps of its own samples: the oracle's draw is taken, the reference responder counts the zero unless its
delay is infinite (R88; logs 7 and 10). -/
def Obligations.WaitStaysOnASampleOfZero : Prop :=
  ∀ (b : BlockPos) (p : PrimPos) (s : State),
    s.turns = [] → s.seq = .run b p → isWait s.seq = true → boundReached s = false → (sampleNWait s).1 = false →
    step s = .next { s with
      regs := { s.regs with polls := if s.waitBound = none then s.regs.polls else s.regs.polls + 1 }
      oracle := if s.env = .oracle then { s.oracle with nWait := s.oracle.nWait.tail } else s.oracle
      draws := if s.env = .oracle ∧ s.oracle.nWait = [] then s.draws + 1 else s.draws
      fix := if s.env = .fixture ∧ scriptDelay s.fix.script s.fix.waits ≠ none then
        { s.fix with polled := s.fix.polled + 1 } else s.fix }

/-- R88, R139: with a delay of d the wait samples 0 exactly d times and then 1, d = 0 included, whatever the script says of other waits;
the bound, if any, is larger. The wait is then over: ADDR goes on, WDATA and RFIN return, and the next wait has the next ordinal. -/
def Obligations.WaitSamplesExactlyItsDelay : Prop :=
  ∀ (s : State) (b : BlockPos) (p : PrimPos) (d : Nat),
    s.turns = [] → s.seq = .run b p → isWait s.seq = true → s.env = .fixture → scriptDelay s.fix.script s.fix.waits = some d →
    s.fix.polled = 0 → s.regs.polls = 0 → (∀ bound, s.waitBound = some bound → d < bound) →
    (∀ k, k ≤ d → runsTo k s { s with
      regs := { s.regs with polls := if s.waitBound = none then 0 else k }
      fix := { s.fix with polled := k } }) ∧
    ∃ t, runsTo (d + 1) s t ∧ t.fix = { s.fix with waits := s.fix.waits + 1, polled := 0 } ∧
      t.pins = s.pins ∧ t.owm = s.owm ∧ t.irqInhibit = s.irqInhibit ∧ t.busy = s.busy ∧ FrameOfAnAction s t ∧
      t.seq = (match p with | .addr _ => .run b (.addr .ce1) | _ => (afterCall b s).seq)

/-- R210: with WAIT_BOUND none and a responder that never raises nWAIT the engine stays at its WAIT position for ever: after any number
of steps the state is the same. -/
def Obligations.DeadResponderHangsTheEngine : Prop :=
  ∀ (s : State) (k : Nat),
    s.turns = [] → isWait s.seq = true → s.waitBound = none → s.env = .fixture →
    scriptDelay s.fix.script s.fix.waits = none → runsTo k s s

/-- R139, R212, R214: with WAIT_BOUND = B the fault comes after exactly B samples of 0: no earlier, and then it ends the command with the
wait's kind, I and A in STATUS. That the raise is a step of its own after the last sample is log 16 (DEDUCED), that a read run ends with
a timed-out Read-Finish, `readRun := false`, log 21 (DEDUCED, unsafe). That the
script goes on to the next wait is R88 as program P3 of 95_test_vectors.md has it. -/
def Obligations.TimeoutAfterExactlyTheBound : Prop :=
  ∀ (s : State) (bound : Nat) (b : BlockPos) (p : PrimPos) (w : WaitKind),
    s.turns = [] → s.seq = .run b p →
    ((p = .addr .wait ∧ w = .addr) ∨ (p = .wdata .wait ∧ w = .wdata) ∨ (p = .rfin .wait ∧ w = .rfin)) →
    s.waitBound = some bound → s.regs.polls = 0 → s.env = .fixture → scriptDelay s.fix.script s.fix.waits = none →
    (∀ k, k ≤ bound → runsTo k s { s with regs := { s.regs with polls := k } }) ∧
    runsTo (bound + 1) s { s with
      regs := { s.regs with polls := bound }
      status := { code := 1, place := (match w with | .addr => 0 | .wdata => 1 | .rfin => 2), index := s.regs.i, addr := s.regs.a }
      busy := false
      seq := .idle
      readRun := false
      fix := { s.fix with waits := s.fix.waits + 1, polled := 0 } }

/-- R214, R215: the entry of ACK_TIMEOUT at any wait, whatever the responder: one step, no pin action; STATUS, BUSY and the position are
written; pins, OWM, IRQ_INHIBIT, the working registers, DEST and memory keep what they held. Two clauses are the model's, not the
rules': the raise as a step of its own after the last sample (log 16, DEDUCED) and `readRun := false` (log 21, DEDUCED, unsafe). That the
reference responder's script goes on to the next wait is R88 as program P3 of 95_test_vectors.md has it. -/
def Obligations.AckTimeoutEntry : Prop :=
  ∀ (s : State) (b : BlockPos) (p : PrimPos) (w : WaitKind),
    s.turns = [] → s.seq = .run b p →
    ((p = .addr .wait ∧ w = .addr) ∨ (p = .wdata .wait ∧ w = .wdata) ∨ (p = .rfin .wait ∧ w = .rfin)) →
    s.waitBound = some s.regs.polls →
    step s = .next { s with
      status := { code := 1, place := (match w with | .addr => 0 | .wdata => 1 | .rfin => 2), index := s.regs.i, addr := s.regs.a }
      busy := false
      seq := .idle
      readRun := false
      fix := if s.env = .fixture then { s.fix with waits := s.fix.waits + 1, polled := 0 } else s.fix }

/-! ### The pin actions -/

/-- R131: a single-pin write changes that one latch and nothing else of the engine and the platform; it does not look at OWM. What is left
is the reference responder's reaction to the edge (R86, R87), which keeps its script, and its memory but for the word at its pointer,
and all of its memory unless CLK is written 0; an oracle, and a write of START, changes nothing beside the latch. -/
def Obligations.SinglePinWriteChangesOneLatch : Prop :=
  ∀ (q : CtlPin) (v : Bool) (s : State),
    (perform (.pin q v) s).pins = (match q with
      | .clk => { s.pins with clk := v }
      | .nRD => { s.pins with nRD := v }
      | .start => { s.pins with start := v }) ∧
    (∃ f d, perform (.pin q v) s = { s with pins := (perform (.pin q v) s).pins, fix := f, draws := d } ∧
      f.script = s.fix.script ∧ f.waits = s.fix.waits ∧ f.polled = s.fix.polled) ∧
    SameMemoryOutsidePointer s (perform (.pin q v) s) ∧
    (¬(q = .clk ∧ v = false) → SameMemory s (perform (.pin q v) s)) ∧
    (s.env = .oracle ∨ q = .start → perform (.pin q v) s = { s with pins := (perform (.pin q v) s).pins })

/-- R132: a direction write sets DIR for the eight lines at once and changes no other latch; with DIR = out the wires carry DOUT, with
DIR = in they carry what the responder drives, if it drives (R21). -/
def Obligations.DirectionWriteChangesDirOnly : Prop :=
  ∀ (d : Dir) (s : State),
    perform (.dir d) s = { s with pins := { s.pins with dir := d } } ∧
    dataWires { s.pins with dir := .out } none = some s.pins.dout ∧
    (∀ drive, dataWires { s.pins with dir := .inp } drive = drive)

/-- R140: a write of the level a latch already holds changes no wire, and the reference responder does not react. -/
def Obligations.WriteOfTheSameLevelIsInvisible : Prop :=
  ∀ (q : CtlPin) (d : Dir) (s : State),
    perform (.pin q (match q with | .clk => s.pins.clk | .nRD => s.pins.nRD | .start => s.pins.start)) s = s ∧
    (s.pins.dir = d → perform (.dir d) s = s)

/-- R133, R142: with OWM = M_BUS the masked write puts the byte on DOUT and the bit on START in one action; CLK, nRD, DIR and every pin
outside the bus keep their levels, and the responder sees no edge. -/
def Obligations.MaskedWriteSetsDataAndStart : Prop :=
  ∀ (y : Byte) (v : Bool) (s : State), s.owm = mBus →
    perform (.mwrite y v) s = { s with pins := { s.pins with dout := y, start := v } }

/-- R137, R138: CRIT_ENTER raises IRQ_INHIBIT, saves OWM and puts M_BUS there; CRIT_EXIT brings OWM back and lowers IRQ_INHIBIT. -/
def Obligations.CriticalSectionRestoresTheMask : Prop :=
  ∀ s : State,
    let enter := perform .writeOwmBus (perform .saveOwm (perform (.inhibit true) s))
    enter = { s with irqInhibit := true, owmSaved := s.owm, owm := mBus } ∧
    ∀ t : State, t.owmSaved = enter.owmSaved →
      perform (.inhibit false) (perform .restoreOwm t) = { t with owm := s.owm, irqInhibit := false }

/-- R161: the multiplexer's byte K is v[8K+7:8K], and writing byte K with it puts exactly those bits back. -/
def Obligations.MultiplexerSelectsByteK : Prop :=
  (∀ (a : Address) (k : Nat), muxByte a k = a.extractLsb' (8 * k) 8) ∧
  (∀ (w : Word) (k : Nat), muxByte w k = w.extractLsb' (8 * k) 8) ∧
  (∀ (w : Word) (k j : Nat) (y : Byte), k < 4 → j < 4 → muxByte (putByte w k y) j = if j = k then y else muxByte w j) ∧
  (∀ (w : Word) (b0 b1 b2 b3 : Byte), putByte (putByte (putByte (putByte w 0 b0) 1 b1) 2 b2) 3 b3 = b3 ++ b2 ++ b1 ++ b0)

/-! ### Block control -/

/-- R193: the address phase is sent before word I of a POKE exactly when I = 0 or A[7:0] = 0; before word I of a PEEK, with RFIN just
before it, exactly when I ≠ 0 and A[7:0] = 0; and once, not twice, when both hold. -/
def Obligations.AddressIsResentOnNewPagesOnly : Prop :=
  ∀ s : State, s.regs.i < s.regs.n →
    ((pokeLoop s).seq = .run .head (.addr .nRD) ↔ s.regs.i = 0 ∨ s.regs.a.extractLsb' 0 8 = 0) ∧
    ((pokeLoop s).seq = .run .xfer (.wdata .nRD) ↔ ¬(s.regs.i = 0 ∨ s.regs.a.extractLsb' 0 8 = 0)) ∧
    ((peekLoop s).seq = .run .close (.rfin (if s.rfinClkLow then .clk else .nRD)) ↔
      s.regs.i ≠ 0 ∧ s.regs.a.extractLsb' 0 8 = 0) ∧
    ((peekLoop s).seq = .run .xfer (.rdata .dir) ↔ ¬(s.regs.i ≠ 0 ∧ s.regs.a.extractLsb' 0 8 = 0)) ∧
    (afterCall .close s).seq = .run .resend (.addr .nRD) ∧
    (afterCall .resend s).seq = .run .xfer (.rdata .dir) ∧
    (s.regs.op = .poke → (afterCall .head s).seq = .run .xfer (.wdata .nRD)) ∧
    (s.regs.op = .peek → s.regs.i = 0 → (afterCall .head s).seq = .run .xfer (.rdata .dir))

/-- R192, R199 (b), R196: after every word A becomes trunc_40(A + 1) and I becomes I + 1; past 2^40 - 1 the address is 0 and, with words
left, it is sent again (by a PEEK after Read-Finish). -/
def Obligations.RunningAddressCountsAndWraps : Prop :=
  ∀ s : State,
    (afterCall .xfer s).regs.a.toNat = (s.regs.a.toNat + 1) % 2 ^ 40 ∧
    (afterCall .xfer s).regs.i = s.regs.i + 1 ∧
    (s.regs.a = 0xFFFFFFFFFF → s.regs.i < s.regs.n → s.regs.i + 1 < s.regs.n →
      (afterCall .xfer s).regs.a = 0 ∧
      (s.regs.op = .poke → (afterCall .xfer s).seq = .run .head (.addr .nRD)) ∧
      (s.regs.op = .peek → (afterCall .xfer s).seq = .run .close (.rfin (if s.rfinClkLow then .clk else .nRD)) ∧
        (afterCall .close (afterCall .xfer s)).seq = .run .resend (.addr .nRD)))

/-! ### Reset -/

/-- R240, R241: after reset the engine is at IDLE with no command in flight and no critical section open, whatever RESET_PINS. -/
def Obligations.ResetIsIdleWithNothingOpen : Prop :=
  ∀ p : ResetPins,
    (State.resetWith p).seq = .idle ∧ (State.resetWith p).busy = false ∧ (State.resetWith p).irqInhibit = false ∧
    (State.resetWith p).status = { code := 0, place := 0, index := 0, addr := 0 } ∧ (State.resetWith p).pins.clk = false ∧
    (State.resetWith p).pins.nRD = p.nRD ∧ (State.resetWith p).pins.start = p.start ∧
    (State.resetWith p).pins.dir = p.dir ∧ (State.resetWith p).pins.dout = p.dout

/-- The state after reset is a good state, whatever RESET_PINS. -/
def Obligations.ResetHasTheInvariant : Prop :=
  ∀ p : ResetPins, Inv (State.resetWith p) ∧ Synced (State.resetWith p) ∧ Transferred (State.resetWith p)

/-- The model's rendering of a fetch (log 24, DESIGN CHOICE): from a good state at rest, the state that `withFetchWord` makes is a good
state too, so that a primitive it places is called as R190 and R191 call it, with START = 0 at a read (R104). -/
def Obligations.FetchedWordStandsInAGoodState : Prop :=
  ∀ (s : State) (nbits w : Nat), Inv s → s.seq = .idle → Inv (s.withFetchWord nbits w)

/-! ### Invariants of every step -/

/-- The order of primitives (R190, R191, R175, R253), the pin levels (R162, R163, R166, R170, R174, R176), IRQ_INHIBIT and OWM (R219,
R137), POLLS (R139), BUSY (R29) and the canonical form of the data: kept by every step of the engine and of the agents beside it. -/
def Obligations.StepKeepsTheInvariant : Prop :=
  ∀ s t : State, Inv s → step s = .next t → Inv t

/-- R37 (a), R80 to R82 with the reference responder: A mirrors its pointer, exactly, at every position at which it matters, and the
bytes under way are those of the address and of the word. -/
def Obligations.StepKeepsThePointerMirrored : Prop :=
  ∀ s t : State, Inv s → Synced s → step s = .next t → Synced t

/-- R89, R197 with the reference responder: at every step the words before I are in their places, in memory for POKE and in DEST for
PEEK. -/
def Obligations.StepKeepsTheTransferredWords : Prop :=
  ∀ s t : State, Inv s → Synced s → Transferred s → step s = .next t → Transferred t

/-- R32, R138 (mask save and restore idempotence): an engine step never changes the platform's own mask, which is in OWM outside the
critical sections and in OWM_SAVED inside. -/
def Obligations.EngineStepsKeepThePlatformsMask : Prop :=
  ∀ s t : State, Inv s → s.turns = [] → step s = .next t → platformMask t = platformMask s

/-- R33, R34, 93 U14: WAIT_BOUND and RFIN_CLK_LOW are constant while a command is in flight. The platform's move that sets them is the
model's rendering (log 17, DESIGN CHOICE): while BUSY = 0, with no bound or a positive one, it writes the two and nothing else; it is
refused otherwise. -/
def Obligations.ConfigurationIsConstantInFlight : Prop :=
  (∀ s t : State, s.busy = true → step s = .next t → t.waitBound = s.waitBound ∧ t.rfinClkLow = s.rfinClkLow) ∧
  ∀ (s : State) (bound : Option Nat) (clkLow : Bool) (ts : List Turn), s.turns = .configure bound clkLow :: ts →
    (s.busy = false → bound ≠ some 0 → step s = .next { s with waitBound := bound, rfinClkLow := clkLow, turns := ts }) ∧
    (s.busy = true ∨ bound = some 0 → step s = .refused .badConfiguration)

/-- R31, R113, R213, R214: STATUS changes only where a command in flight ends, with OK or ACK_TIMEOUT, or where the offer at the port is
refused with CONTRACT; its code is never the reserved 3. That a refused offer leaves the port is log 13 (DESIGN CHOICE). -/
def Obligations.StatusIsWrittenOnlyAtTheEnd : Prop :=
  ∀ s t : State, step s = .next t → t.status ≠ s.status →
    t.seq = .idle ∧ t.busy = false ∧
    ((s.seq ≠ .idle ∧ (Inv s → s.busy = true) ∧ t.port = s.port ∧ (t.status.code = 0 ∨ t.status.code = 1)) ∨
      (s.seq = .idle ∧ s.busy = false ∧ s.port ≠ [] ∧ t.port = s.port.tail ∧ t.status.code = 2)) ∧
    (t.status.code = 0 → t.status.place = 0 ∧ t.status.index = 0 ∧ t.status.addr = 0)

/-- R141, R219: a handler's move waits while IRQ_INHIBIT = 1 and the engine moves meanwhile; else it writes OWM, or pins outside the
bus, and nothing else; a move that touches the bus is refused (93 U10). -/
def Obligations.HandlersRunOnlyWhenEnabled : Prop :=
  ∀ (s : State) (w : HandlerWrite) (ts : List Turn), s.turns = .handler w :: ts →
    (s.irqInhibit = true →
      step s = (match engineMove s with
        | .run i u => exec i u
        | .rest u => .next u
        | .stop r => .refused r) ∧
      ∀ t, step s = .next t → t.turns = s.turns) ∧
    (s.irqInhibit = false → step s = (match w with
      | .owm m => .next { s with owm := m, turns := ts }
      | .otherPins v => .next { s with otherPins := v, turns := ts }
      | .busLine _ _ => .refused .handlerTouchesBus
      | .dataDir _ => .refused .handlerTouchesBus
      | .leaveInhibited => .refused .handlerTouchesBus))

/-- R86, R201: a step changes no byte of memory outside the word at the responder's pointer, and none at all unless the reference
responder has three bytes of a word, no address in progress and CLK is 1, about to fall. -/
def Obligations.MemoryChangesOnlyUnderThePointer : Prop :=
  ∀ s t : State, step s = .next t →
    SameMemoryOutsidePointer s t ∧
    (¬(s.env = .fixture ∧ s.pins.clk = true ∧ s.fix.abytes = 0 ∧ s.fix.wcnt = 3) → SameMemory s t)

/-- R106, R113: the engine makes no CLK edge with nRD = 0 and START = 1. -/
def Obligations.NoClockEdgeAtTheUnusedLevels : Prop :=
  ∀ s t : State, Inv s → step s = .next t → t.pins.clk ≠ s.pins.clk → t.pins.nRD = true ∨ t.pins.start = false

/-- R101 to R104: while CLK is high in beat K of an address phase or of a word written, the bus carries symbol K of the transfer's encoding
(the responder silent, R84); at a sample the engine's half of the symbol is 00 and the rest is the responder's byte. -/
def Obligations.BeatsCarryTheSymbolsOfTheEncoding : Prop :=
  ∀ (s : State) (b : BlockPos), Inv s →
    (s.seq = .run b (.addr .lo) →
      busSymbol s.pins none = (wireSymbols (.addr s.regs.a))[s.regs.k.toNat]? ∧ s.pins.clk = true) ∧
    (s.seq = .run b (.wdata .lo) →
      busSymbol s.pins none = (wireSymbols (.wdata s.regs.w))[s.regs.k.toNat]? ∧ s.pins.clk = true) ∧
    (s.seq = .run b (.rdata .smp) → ∀ d : Byte, busSymbol s.pins (some d) = some (0b00#2 ++ d) ∧ s.pins.clk = true)

/-! ### Whole primitives and whole commands -/

/-- R162, R176: with nWAIT at 1, ADDR takes 24 steps and leaves nRD = 1, START = 0, DIR = out, DOUT = a[39:32], CLK = 0, OWM as before,
IRQ_INHIBIT = 0, at the line after the call. -/
def Obligations.AddrRunsToItsEnd : Prop :=
  ∀ (b : BlockPos) (s : State),
    s.turns = [] → s.seq = .run b (.addr .nRD) → s.regs.k = 0 → boundOk s.waitBound = true → (sampleNWait s).1 = true →
    ∃ t, runsTo 24 s t ∧
      t.pins = { clk := false, nRD := true, start := false, dir := .out, dout := s.regs.a.extractLsb' 32 8 } ∧
      t.owm = s.owm ∧ t.irqInhibit = false ∧ t.otherPins = s.otherPins ∧ t.status = s.status ∧ t.port = s.port ∧
      t.seq = (afterCall b s).seq

/-- R166, R176: with nWAIT at 1, WDATA takes 21 steps and leaves nRD = 1, START = 0, DIR = out, DOUT = w[31:24], CLK = 0, OWM as before,
IRQ_INHIBIT = 0. -/
def Obligations.WdataRunsToItsEnd : Prop :=
  ∀ (b : BlockPos) (s : State),
    s.turns = [] → s.seq = .run b (.wdata .nRD) → s.regs.k = 0 → boundOk s.waitBound = true → (sampleNWait s).1 = true →
    ∃ t, runsTo 21 s t ∧
      t.pins = { clk := false, nRD := true, start := false, dir := .out, dout := s.regs.w.extractLsb' 24 8 } ∧
      t.owm = s.owm ∧ t.irqInhibit = false ∧ t.otherPins = s.otherPins ∧ t.status = s.status ∧ t.port = s.port ∧
      t.seq = (afterCall b s).seq

/-- R170, R176, R191: a PEEK's RDATA takes 14 steps whatever nWAIT does; the four bytes sampled are the word, low byte first, in W and in
DEST[I]; nRD = 0, DIR = in, CLK = 1, the rest of the pins, OWM and IRQ_INHIBIT as before. Every word can be the
result (93 U3). -/
def Obligations.RdataAssemblesTheSampledWord : Prop :=
  ∀ (s : State) (b0 b1 b2 b3 : Byte) (more : List Byte),
    s.turns = [] → s.seq = .run .xfer (.rdata .dir) → s.regs.k = 0 → s.regs.op = .peek →
    s.env = .oracle → s.oracle.data = b0 :: b1 :: b2 :: b3 :: more →
    ∃ t, runsTo 14 s t ∧ t.regs.w = b3 ++ b2 ++ b1 ++ b0 ∧ t.oracle.data = more ∧
      destRead t.dest s.regs.i.toNat = some (b3 ++ b2 ++ b1 ++ b0) ∧
      t.pins = { s.pins with clk := true, nRD := false, dir := .inp } ∧
      t.owm = s.owm ∧ t.irqInhibit = s.irqInhibit ∧ t.status = s.status ∧ t.otherPins = s.otherPins ∧
      t.regs.i = s.regs.i + 1 ∧ t.regs.a = s.regs.a + 1 ∧ t.port = s.port ∧ t.readRun = true

/-- R174, R176: with nWAIT at 1, RFIN takes 3 steps, 4 with RFIN_CLK_LOW, and leaves nRD = 1, DIR = out, START and DOUT unchanged, CLK
unchanged, or 0 with RFIN_CLK_LOW. -/
def Obligations.RfinRunsToItsEnd : Prop :=
  ∀ (b : BlockPos) (s : State),
    s.turns = [] → s.seq = .run b (.rfin (if s.rfinClkLow then .clk else .nRD)) → boundOk s.waitBound = true →
    (sampleNWait s).1 = true →
    ∃ t, runsTo (if s.rfinClkLow then 4 else 3) s t ∧
      t.pins = { s.pins with nRD := true, dir := .out, clk := if s.rfinClkLow then false else s.pins.clk } ∧
      t.owm = s.owm ∧ t.irqInhibit = s.irqInhibit ∧ t.otherPins = s.otherPins ∧ t.status = s.status ∧ t.readRun = false ∧
      t.seq = (afterCall b s).seq

/-- R194, R190: on the always-ready responder a POKE of n ≥ 1 words takes its accept, 24 steps for each of P address phases and 21 for
each word, and then ends: STATUS OK, BUSY 0, IDLE, nRD = 1, START = 0, DIR = out, CLK = 0. The one step each for accept and end is log 1
(DEDUCED). -/
def Obligations.PokeTakesTheCountedSteps : Prop :=
  ∀ (s : State) (o : Offer) (addr : HostAddress) (n : Count),
    Offering o s → IsPoke o addr n → n ≠ 0 → n.toNat ≤ o.srcCount → AlwaysReady s → boundOk s.waitBound = true →
    ∃ t, runsTo (1 + 24 * addressPhases addr n + 21 * n.toNat + 1) s t ∧
      t.seq = .idle ∧ t.busy = false ∧ t.status = { code := 0, place := 0, index := 0, addr := 0 } ∧
      t.pins.nRD = true ∧ t.pins.start = false ∧ t.pins.dir = .out ∧ t.pins.clk = false ∧
      t.owm = s.owm ∧ t.irqInhibit = false

/-- R194, R191, R195: a PEEK of n words takes its accept, 24 steps for each of P address phases, 14 for each word and 3 for each of P
Read-Finish (4 with RFIN_CLK_LOW); P = 1 for n = 0. CLK rests at 1 after reads unless RFIN_CLK_LOW (R254). The one step each for accept
and end is log 1 (DEDUCED). -/
def Obligations.PeekTakesTheCountedSteps : Prop :=
  ∀ (s : State) (o : Offer) (addr : HostAddress) (n : Count),
    Offering o s → IsPeek o addr n → n.toNat ≤ o.room → AlwaysReady s → boundOk s.waitBound = true →
    ∃ t, runsTo (1 + 24 * addressPhases addr n + 14 * n.toNat + (if s.rfinClkLow then 4 else 3) * addressPhases addr n + 1) s t ∧
      t.seq = .idle ∧ t.busy = false ∧ t.status = { code := 0, place := 0, index := 0, addr := 0 } ∧
      t.pins.nRD = true ∧ t.pins.start = false ∧ t.pins.dir = .out ∧ t.pins.clk = (n != 0 && !s.rfinClkLow) ∧
      t.owm = s.owm ∧ t.irqInhibit = false

/-- R89 for POKE: on the always-ready responder, when the command has ended, word i of the source is at address trunc_40(addr + i) for
every i < n, and every other address holds what it held before. The step count is that of R194 with log 1 (DEDUCED) for accept and end. -/
def Obligations.PokeWritesExactlyItsWords : Prop :=
  ∀ (s : State) (o : Offer) (addr : HostAddress) (n : Count),
    Inv s → Offering o s → IsPoke o addr n → n ≠ 0 → n.toNat ≤ o.srcCount → AlwaysReady s →
    ∃ t, runsTo (1 + 24 * addressPhases addr n + 21 * n.toNat + 1) s t ∧
      (∀ j < n.toNat, readWord t.fix.mem (trunc40 addr + BitVec.ofNat 40 j) = srcAt o.src j) ∧
      (∀ a : Address, (∀ j < n.toNat, a ≠ trunc40 addr + BitVec.ofNat 40 j) → readWord t.fix.mem a = readWord s.fix.mem a) ∧
      t.dest = s.dest

/-- R89 for PEEK: on the always-ready responder, when the command has ended, DEST[i] is the word at address trunc_40(addr + i) for every
i < n, no other entry of DEST has changed, and memory is unchanged. The step count is that of R194 with log 1 (DEDUCED) for accept and
end. -/
def Obligations.PeekReadsExactlyItsWords : Prop :=
  ∀ (s : State) (o : Offer) (addr : HostAddress) (n : Count),
    Inv s → Offering o s → IsPeek o addr n → n.toNat ≤ o.room → AlwaysReady s →
    ∃ t, runsTo (1 + 24 * addressPhases addr n + 14 * n.toNat + (if s.rfinClkLow then 4 else 3) * addressPhases addr n + 1) s t ∧
      (∀ j < n.toNat, destRead t.dest j = some (readWord s.fix.mem (trunc40 addr + BitVec.ofNat 40 j))) ∧
      (∀ j, n.toNat ≤ j → destRead t.dest j = destRead s.dest j) ∧
      t.fix.mem = s.fix.mem

/-- R261: with WAIT_BOUND = B every command ends, whatever the responder does. -/
def Obligations.BoundedCommandsEnd : Prop :=
  ∀ (s : State) (bound : Nat), Inv s → s.turns = [] → s.waitBound = some bound →
    ∃ k t, runsTo k s t ∧ t.seq = .idle ∧ t.busy = false
end

