-- ==== Sys2Proof/Laws/Memory.lean ====
section
/-! SUPPORT. The laws of the remote space: a read after a write, and the canonical form kept by every operation. -/

namespace Sys2Proof.Machine

theorem readByte_consCell_self (k : Nat) (v : Byte) (r : Memory) (h : readByte r k = unlistedByte) :
    readByte (consCell k v r) k = v := by
  unfold consCell
  split
  · next hv => rw [h, hv]
  · simp [readByte]

theorem readByte_consCell_other {k j : Nat} (v : Byte) (r : Memory) (h : j ≠ k) :
    readByte (consCell k v r) j = readByte r j := by
  unfold consCell
  split
  · rfl
  · simp [readByte, h]

theorem wfFrom_mono {lo lo' : Nat} {m : Memory} (h : wfFrom lo m = true) (hle : lo' ≤ lo) : wfFrom lo' m = true := by
  cases m with
  | nil => rfl
  | cons c r =>
    obtain ⟨k, b⟩ := c
    simp only [wfFrom, Bool.and_eq_true, decide_eq_true_eq] at h ⊢
    exact ⟨⟨⟨by omega, h.1.1.2⟩, h.1.2⟩, h.2⟩

/-- Below its first key a canonical list reads as unlisted. -/
theorem readByte_below {lo key : Nat} {m : Memory} (h : wfFrom lo m = true) (hk : key < lo) :
    readByte m key = unlistedByte := by
  induction m generalizing lo with
  | nil => rfl
  | cons c r ih =>
    obtain ⟨k, b⟩ := c
    simp only [wfFrom, Bool.and_eq_true, decide_eq_true_eq] at h
    have hne : key ≠ k := by omega
    simp only [readByte, hne, if_false]
    exact ih h.2 (by omega)

theorem wfFrom_consCell {lo k : Nat} {v : Byte} {r : Memory} (hlo : lo ≤ k) (hk : k < memoryEnd)
    (hr : wfFrom (k + 1) r = true) : wfFrom lo (consCell k v r) = true := by
  unfold consCell
  split
  · exact wfFrom_mono hr (by omega)
  · next hv => simp [wfFrom, hlo, hk, hv, hr]

theorem wfFrom_writeByte {lo key : Nat} {v : Byte} {m : Memory} (h : wfFrom lo m = true) (hlo : lo ≤ key)
    (hk : key < memoryEnd) : wfFrom lo (writeByte m key v) = true := by
  induction m generalizing lo with
  | nil => exact wfFrom_consCell hlo hk rfl
  | cons c r ih =>
    obtain ⟨k, b⟩ := c
    have h' := h
    simp only [wfFrom, Bool.and_eq_true, decide_eq_true_eq] at h'
    simp only [writeByte]
    split
    · next hlt =>
      refine wfFrom_consCell hlo hk ?_
      simp only [wfFrom, Bool.and_eq_true, decide_eq_true_eq]
      exact ⟨⟨⟨by omega, h'.1.1.2⟩, h'.1.2⟩, h'.2⟩
    · split
      · next heq => exact wfFrom_consCell hlo hk (by rw [heq]; exact h'.2)
      · simp only [wfFrom, Bool.and_eq_true, decide_eq_true_eq]
        exact ⟨h'.1, ih h'.2 (by omega)⟩

/-- Writing a byte of the space keeps the canonical form. -/
theorem Memory.wf_writeByte {m : Memory} {key : Nat} (v : Byte) (h : Memory.wf m = true) (hk : key < memoryEnd) :
    Memory.wf (writeByte m key v) = true :=
  wfFrom_writeByte h (Nat.zero_le _) hk

theorem byteKey_lt_memoryEnd (a : Address) {k : Nat} (hk : k < 4) : byteKey a k < memoryEnd := by
  have := a.isLt
  unfold byteKey memoryEnd
  omega

/-- Writing a word keeps the canonical form. -/
theorem Memory.wf_writeWord {m : Memory} (a : Address) (v : Word) (h : Memory.wf m = true) :
    Memory.wf (writeWord m a v) = true := by
  unfold writeWord
  exact wf_writeByte _ (wf_writeByte _ (wf_writeByte _ (wf_writeByte _ h (byteKey_lt_memoryEnd a (by decide)))
    (byteKey_lt_memoryEnd a (by decide))) (byteKey_lt_memoryEnd a (by decide))) (byteKey_lt_memoryEnd a (by decide))

theorem readByte_writeByte_self_from {lo : Nat} {m : Memory} (key : Nat) (v : Byte) (h : wfFrom lo m = true) :
    readByte (writeByte m key v) key = v := by
  induction m generalizing lo with
  | nil => exact readByte_consCell_self _ _ _ rfl
  | cons c r ih =>
    obtain ⟨k, b⟩ := c
    have h' := h
    simp only [wfFrom, Bool.and_eq_true, decide_eq_true_eq] at h'
    simp only [writeByte]
    split
    · next hlt =>
      refine readByte_consCell_self _ _ _ ?_
      have hne : key ≠ k := by omega
      simp only [readByte, hne, if_false]
      exact readByte_below h'.2 (by omega)
    · split
      · next heq => exact readByte_consCell_self _ _ _ (readByte_below h'.2 (by omega))
      · next hne => simp only [readByte, hne, if_false]; exact ih h'.2

/-- A read after a write to the same byte gives the value written. -/
theorem readByte_writeByte_self {m : Memory} (key : Nat) (v : Byte) (h : Memory.wf m = true) :
    readByte (writeByte m key v) key = v :=
  readByte_writeByte_self_from key v h

/-- A write leaves every other byte alone. -/
theorem readByte_writeByte_other (m : Memory) {key j : Nat} (v : Byte) (h : j ≠ key) :
    readByte (writeByte m key v) j = readByte m j := by
  induction m with
  | nil => exact readByte_consCell_other _ _ h
  | cons c r ih =>
    obtain ⟨k, b⟩ := c
    simp only [writeByte]
    split
    · exact readByte_consCell_other _ _ h
    · split
      · next heq =>
        rw [readByte_consCell_other _ _ h]
        have : j ≠ k := by omega
        simp [readByte, this]
      · simp only [readByte, ih]

/-- A word write leaves every byte outside its four alone. -/
theorem readByte_writeWord_other (m : Memory) (a : Address) (v : Word) {key : Nat}
    (h : key < 4 * a.toNat ∨ 4 * a.toNat + 4 ≤ key) : readByte (writeWord m a v) key = readByte m key := by
  unfold writeWord
  rw [readByte_writeByte_other, readByte_writeByte_other, readByte_writeByte_other, readByte_writeByte_other] <;>
    (unfold byteKey; omega)

/-- A word write leaves every other word alone. -/
theorem readWord_writeWord_other (m : Memory) {a b : Address} (v : Word) (h : b ≠ a) :
    readWord (writeWord m a v) b = readWord m b := by
  have hne : b.toNat ≠ a.toNat := fun e => h (BitVec.eq_of_toNat_eq e)
  unfold readWord
  rw [readByte_writeWord_other, readByte_writeWord_other, readByte_writeWord_other, readByte_writeWord_other] <;>
    (unfold byteKey; omega)

/-- The four bytes of a word, low byte first, are the word. -/
theorem muxByte_append (v : Word) : muxByte v 3 ++ muxByte v 2 ++ muxByte v 1 ++ muxByte v 0 = v := by
  apply BitVec.eq_of_getLsbD_eq
  intro i hi
  simp only [muxByte, BitVec.getLsbD_append, BitVec.getLsbD_setWidth, BitVec.getLsbD_ushiftRight]
  rcases Nat.lt_or_ge i 8 with h | h
  · simp [h]
  rcases Nat.lt_or_ge i 16 with h2 | h2
  · have e : 8 + (i - 8) = i := by omega
    have : i - 8 < 8 := by omega
    simp [show ¬ i < 8 by omega, this, e]
  rcases Nat.lt_or_ge i 24 with h3 | h3
  · have e : 16 + (i - 8 - 8) = i := by omega
    have : i - 8 - 8 < 8 := by omega
    simp [show ¬ i < 8 by omega, show ¬ i - 8 < 8 by omega, this, e]
  · have e : 24 + (i - 8 - 8 - 8) = i := by omega
    have : i - 8 - 8 - 8 < 8 := by omega
    simp [show ¬ i < 8 by omega, show ¬ i - 8 < 8 by omega, show ¬ i - 8 - 8 < 8 by omega, this, e]

/-- A word read after a write to the same address gives the word written. -/
theorem readWord_writeWord_self {m : Memory} (a : Address) (v : Word) (h : Memory.wf m = true) :
    readWord (writeWord m a v) a = v := by
  have h0 := Memory.wf_writeByte (muxByte v 0) h (byteKey_lt_memoryEnd a (k := 0) (by decide))
  have h1 := Memory.wf_writeByte (muxByte v 1) h0 (byteKey_lt_memoryEnd a (k := 1) (by decide))
  have h2 := Memory.wf_writeByte (muxByte v 2) h1 (byteKey_lt_memoryEnd a (k := 2) (by decide))
  have n01 : byteKey a 0 ≠ byteKey a 1 := by unfold byteKey; omega
  have n02 : byteKey a 0 ≠ byteKey a 2 := by unfold byteKey; omega
  have n03 : byteKey a 0 ≠ byteKey a 3 := by unfold byteKey; omega
  have n12 : byteKey a 1 ≠ byteKey a 2 := by unfold byteKey; omega
  have n13 : byteKey a 1 ≠ byteKey a 3 := by unfold byteKey; omega
  have n23 : byteKey a 2 ≠ byteKey a 3 := by unfold byteKey; omega
  unfold readWord writeWord
  rw [readByte_writeByte_self _ _ h2, readByte_writeByte_other _ _ n23, readByte_writeByte_self _ _ h1,
    readByte_writeByte_other _ _ n13, readByte_writeByte_other _ _ n12, readByte_writeByte_self _ _ h0,
    readByte_writeByte_other _ _ n03, readByte_writeByte_other _ _ n02, readByte_writeByte_other _ _ n01,
    readByte_writeByte_self _ _ h]
  exact muxByte_append v

/-! ### DEST -/

theorem destRead_destWrite_self (d : List (Nat × Word)) (i : Nat) (w : Word) : destRead (destWrite d i w) i = some w := by
  induction d with
  | nil => simp [destWrite, destRead]
  | cons c r ih =>
    obtain ⟨j, v⟩ := c
    simp only [destWrite]
    split
    · simp [destRead]
    · split
      · simp [destRead]
      · next h => simp [destRead, h, ih]

theorem destRead_destWrite_other (d : List (Nat × Word)) {i j : Nat} (w : Word) (h : j ≠ i) :
    destRead (destWrite d i w) j = destRead d j := by
  induction d with
  | nil => simp [destWrite, destRead, h]
  | cons c r ih =>
    obtain ⟨l, v⟩ := c
    simp only [destWrite]
    split
    · simp [destRead, h]
    · split
      · next e => subst e; simp [destRead, h]
      · simp only [destRead, ih]

end Sys2Proof.Machine
end

