-- ==== Sys2Proof/Laws/State.lean ====
section
/-! SUPPORT. What each named update of State makes of each field: true by rfl. -/

namespace Sys2Proof.Machine

section
variable (v : Bool) (s : State)
@[simp] theorem setInhibit_pins : (setInhibit v s).pins = s.pins := rfl
@[simp] theorem setInhibit_otherPins : (setInhibit v s).otherPins = s.otherPins := rfl
@[simp] theorem setInhibit_owm : (setInhibit v s).owm = s.owm := rfl
@[simp] theorem setInhibit_owmSaved : (setInhibit v s).owmSaved = s.owmSaved := rfl
@[simp] theorem setInhibit_irqInhibit : (setInhibit v s).irqInhibit = v := rfl
@[simp] theorem setInhibit_busy : (setInhibit v s).busy = s.busy := rfl
@[simp] theorem setInhibit_status : (setInhibit v s).status = s.status := rfl
@[simp] theorem setInhibit_regs : (setInhibit v s).regs = s.regs := rfl
@[simp] theorem setInhibit_seq : (setInhibit v s).seq = s.seq := rfl
@[simp] theorem setInhibit_waitBound : (setInhibit v s).waitBound = s.waitBound := rfl
@[simp] theorem setInhibit_rfinClkLow : (setInhibit v s).rfinClkLow = s.rfinClkLow := rfl
@[simp] theorem setInhibit_port : (setInhibit v s).port = s.port := rfl
@[simp] theorem setInhibit_src : (setInhibit v s).src = s.src := rfl
@[simp] theorem setInhibit_dest : (setInhibit v s).dest = s.dest := rfl
@[simp] theorem setInhibit_readRun : (setInhibit v s).readRun = s.readRun := rfl
@[simp] theorem setInhibit_env : (setInhibit v s).env = s.env := rfl
@[simp] theorem setInhibit_oracle : (setInhibit v s).oracle = s.oracle := rfl
@[simp] theorem setInhibit_fix : (setInhibit v s).fix = s.fix := rfl
@[simp] theorem setInhibit_draws : (setInhibit v s).draws = s.draws := rfl
@[simp] theorem setInhibit_turns : (setInhibit v s).turns = s.turns := rfl
end

section
variable (s : State)
@[simp] theorem saveOwm_pins : (saveOwm s).pins = s.pins := rfl
@[simp] theorem saveOwm_otherPins : (saveOwm s).otherPins = s.otherPins := rfl
@[simp] theorem saveOwm_owm : (saveOwm s).owm = s.owm := rfl
@[simp] theorem saveOwm_owmSaved : (saveOwm s).owmSaved = s.owm := rfl
@[simp] theorem saveOwm_irqInhibit : (saveOwm s).irqInhibit = s.irqInhibit := rfl
@[simp] theorem saveOwm_busy : (saveOwm s).busy = s.busy := rfl
@[simp] theorem saveOwm_status : (saveOwm s).status = s.status := rfl
@[simp] theorem saveOwm_regs : (saveOwm s).regs = s.regs := rfl
@[simp] theorem saveOwm_seq : (saveOwm s).seq = s.seq := rfl
@[simp] theorem saveOwm_waitBound : (saveOwm s).waitBound = s.waitBound := rfl
@[simp] theorem saveOwm_rfinClkLow : (saveOwm s).rfinClkLow = s.rfinClkLow := rfl
@[simp] theorem saveOwm_port : (saveOwm s).port = s.port := rfl
@[simp] theorem saveOwm_src : (saveOwm s).src = s.src := rfl
@[simp] theorem saveOwm_dest : (saveOwm s).dest = s.dest := rfl
@[simp] theorem saveOwm_readRun : (saveOwm s).readRun = s.readRun := rfl
@[simp] theorem saveOwm_env : (saveOwm s).env = s.env := rfl
@[simp] theorem saveOwm_oracle : (saveOwm s).oracle = s.oracle := rfl
@[simp] theorem saveOwm_fix : (saveOwm s).fix = s.fix := rfl
@[simp] theorem saveOwm_draws : (saveOwm s).draws = s.draws := rfl
@[simp] theorem saveOwm_turns : (saveOwm s).turns = s.turns := rfl
end

section
variable (s : State)
@[simp] theorem writeOwmBus_pins : (writeOwmBus s).pins = s.pins := rfl
@[simp] theorem writeOwmBus_otherPins : (writeOwmBus s).otherPins = s.otherPins := rfl
@[simp] theorem writeOwmBus_owm : (writeOwmBus s).owm = mBus := rfl
@[simp] theorem writeOwmBus_owmSaved : (writeOwmBus s).owmSaved = s.owmSaved := rfl
@[simp] theorem writeOwmBus_irqInhibit : (writeOwmBus s).irqInhibit = s.irqInhibit := rfl
@[simp] theorem writeOwmBus_busy : (writeOwmBus s).busy = s.busy := rfl
@[simp] theorem writeOwmBus_status : (writeOwmBus s).status = s.status := rfl
@[simp] theorem writeOwmBus_regs : (writeOwmBus s).regs = s.regs := rfl
@[simp] theorem writeOwmBus_seq : (writeOwmBus s).seq = s.seq := rfl
@[simp] theorem writeOwmBus_waitBound : (writeOwmBus s).waitBound = s.waitBound := rfl
@[simp] theorem writeOwmBus_rfinClkLow : (writeOwmBus s).rfinClkLow = s.rfinClkLow := rfl
@[simp] theorem writeOwmBus_port : (writeOwmBus s).port = s.port := rfl
@[simp] theorem writeOwmBus_src : (writeOwmBus s).src = s.src := rfl
@[simp] theorem writeOwmBus_dest : (writeOwmBus s).dest = s.dest := rfl
@[simp] theorem writeOwmBus_readRun : (writeOwmBus s).readRun = s.readRun := rfl
@[simp] theorem writeOwmBus_env : (writeOwmBus s).env = s.env := rfl
@[simp] theorem writeOwmBus_oracle : (writeOwmBus s).oracle = s.oracle := rfl
@[simp] theorem writeOwmBus_fix : (writeOwmBus s).fix = s.fix := rfl
@[simp] theorem writeOwmBus_draws : (writeOwmBus s).draws = s.draws := rfl
@[simp] theorem writeOwmBus_turns : (writeOwmBus s).turns = s.turns := rfl
end

section
variable (s : State)
@[simp] theorem restoreOwm_pins : (restoreOwm s).pins = s.pins := rfl
@[simp] theorem restoreOwm_otherPins : (restoreOwm s).otherPins = s.otherPins := rfl
@[simp] theorem restoreOwm_owm : (restoreOwm s).owm = s.owmSaved := rfl
@[simp] theorem restoreOwm_owmSaved : (restoreOwm s).owmSaved = s.owmSaved := rfl
@[simp] theorem restoreOwm_irqInhibit : (restoreOwm s).irqInhibit = s.irqInhibit := rfl
@[simp] theorem restoreOwm_busy : (restoreOwm s).busy = s.busy := rfl
@[simp] theorem restoreOwm_status : (restoreOwm s).status = s.status := rfl
@[simp] theorem restoreOwm_regs : (restoreOwm s).regs = s.regs := rfl
@[simp] theorem restoreOwm_seq : (restoreOwm s).seq = s.seq := rfl
@[simp] theorem restoreOwm_waitBound : (restoreOwm s).waitBound = s.waitBound := rfl
@[simp] theorem restoreOwm_rfinClkLow : (restoreOwm s).rfinClkLow = s.rfinClkLow := rfl
@[simp] theorem restoreOwm_port : (restoreOwm s).port = s.port := rfl
@[simp] theorem restoreOwm_src : (restoreOwm s).src = s.src := rfl
@[simp] theorem restoreOwm_dest : (restoreOwm s).dest = s.dest := rfl
@[simp] theorem restoreOwm_readRun : (restoreOwm s).readRun = s.readRun := rfl
@[simp] theorem restoreOwm_env : (restoreOwm s).env = s.env := rfl
@[simp] theorem restoreOwm_oracle : (restoreOwm s).oracle = s.oracle := rfl
@[simp] theorem restoreOwm_fix : (restoreOwm s).fix = s.fix := rfl
@[simp] theorem restoreOwm_draws : (restoreOwm s).draws = s.draws := rfl
@[simp] theorem restoreOwm_turns : (restoreOwm s).turns = s.turns := rfl
end

section
variable (s : State)
@[simp] theorem endCommand_pins : (endCommand s).pins = s.pins := rfl
@[simp] theorem endCommand_otherPins : (endCommand s).otherPins = s.otherPins := rfl
@[simp] theorem endCommand_owm : (endCommand s).owm = s.owm := rfl
@[simp] theorem endCommand_owmSaved : (endCommand s).owmSaved = s.owmSaved := rfl
@[simp] theorem endCommand_irqInhibit : (endCommand s).irqInhibit = s.irqInhibit := rfl
@[simp] theorem endCommand_busy : (endCommand s).busy = false := rfl
@[simp] theorem endCommand_status : (endCommand s).status = statusOk := rfl
@[simp] theorem endCommand_regs : (endCommand s).regs = s.regs := rfl
@[simp] theorem endCommand_seq : (endCommand s).seq = .idle := rfl
@[simp] theorem endCommand_waitBound : (endCommand s).waitBound = s.waitBound := rfl
@[simp] theorem endCommand_rfinClkLow : (endCommand s).rfinClkLow = s.rfinClkLow := rfl
@[simp] theorem endCommand_port : (endCommand s).port = s.port := rfl
@[simp] theorem endCommand_src : (endCommand s).src = s.src := rfl
@[simp] theorem endCommand_dest : (endCommand s).dest = s.dest := rfl
@[simp] theorem endCommand_readRun : (endCommand s).readRun = s.readRun := rfl
@[simp] theorem endCommand_env : (endCommand s).env = s.env := rfl
@[simp] theorem endCommand_oracle : (endCommand s).oracle = s.oracle := rfl
@[simp] theorem endCommand_fix : (endCommand s).fix = s.fix := rfl
@[simp] theorem endCommand_draws : (endCommand s).draws = s.draws := rfl
@[simp] theorem endCommand_turns : (endCommand s).turns = s.turns := rfl
end

section
variable (s : State)
@[simp] theorem refuseContract_pins : (refuseContract s).pins = s.pins := rfl
@[simp] theorem refuseContract_otherPins : (refuseContract s).otherPins = s.otherPins := rfl
@[simp] theorem refuseContract_owm : (refuseContract s).owm = s.owm := rfl
@[simp] theorem refuseContract_owmSaved : (refuseContract s).owmSaved = s.owmSaved := rfl
@[simp] theorem refuseContract_irqInhibit : (refuseContract s).irqInhibit = s.irqInhibit := rfl
@[simp] theorem refuseContract_busy : (refuseContract s).busy = s.busy := rfl
@[simp] theorem refuseContract_status : (refuseContract s).status = statusContract := rfl
@[simp] theorem refuseContract_regs : (refuseContract s).regs = s.regs := rfl
@[simp] theorem refuseContract_seq : (refuseContract s).seq = s.seq := rfl
@[simp] theorem refuseContract_waitBound : (refuseContract s).waitBound = s.waitBound := rfl
@[simp] theorem refuseContract_rfinClkLow : (refuseContract s).rfinClkLow = s.rfinClkLow := rfl
@[simp] theorem refuseContract_port : (refuseContract s).port = s.port.tail := rfl
@[simp] theorem refuseContract_src : (refuseContract s).src = s.src := rfl
@[simp] theorem refuseContract_dest : (refuseContract s).dest = s.dest := rfl
@[simp] theorem refuseContract_readRun : (refuseContract s).readRun = s.readRun := rfl
@[simp] theorem refuseContract_env : (refuseContract s).env = s.env := rfl
@[simp] theorem refuseContract_oracle : (refuseContract s).oracle = s.oracle := rfl
@[simp] theorem refuseContract_fix : (refuseContract s).fix = s.fix := rfl
@[simp] theorem refuseContract_draws : (refuseContract s).draws = s.draws := rfl
@[simp] theorem refuseContract_turns : (refuseContract s).turns = s.turns := rfl
end

section
variable (b : BlockPos) (p : PrimPos) (s : State)
@[simp] theorem goto_pins : (goto b p s).pins = s.pins := rfl
@[simp] theorem goto_otherPins : (goto b p s).otherPins = s.otherPins := rfl
@[simp] theorem goto_owm : (goto b p s).owm = s.owm := rfl
@[simp] theorem goto_owmSaved : (goto b p s).owmSaved = s.owmSaved := rfl
@[simp] theorem goto_irqInhibit : (goto b p s).irqInhibit = s.irqInhibit := rfl
@[simp] theorem goto_busy : (goto b p s).busy = s.busy := rfl
@[simp] theorem goto_status : (goto b p s).status = s.status := rfl
@[simp] theorem goto_regs : (goto b p s).regs = s.regs := rfl
@[simp] theorem goto_seq : (goto b p s).seq = .run b p := rfl
@[simp] theorem goto_waitBound : (goto b p s).waitBound = s.waitBound := rfl
@[simp] theorem goto_rfinClkLow : (goto b p s).rfinClkLow = s.rfinClkLow := rfl
@[simp] theorem goto_port : (goto b p s).port = s.port := rfl
@[simp] theorem goto_src : (goto b p s).src = s.src := rfl
@[simp] theorem goto_dest : (goto b p s).dest = s.dest := rfl
@[simp] theorem goto_readRun : (goto b p s).readRun = s.readRun := rfl
@[simp] theorem goto_env : (goto b p s).env = s.env := rfl
@[simp] theorem goto_oracle : (goto b p s).oracle = s.oracle := rfl
@[simp] theorem goto_fix : (goto b p s).fix = s.fix := rfl
@[simp] theorem goto_draws : (goto b p s).draws = s.draws := rfl
@[simp] theorem goto_turns : (goto b p s).turns = s.turns := rfl
end

section
variable (b : BlockPos) (s : State)
@[simp] theorem callAddr_pins : (callAddr b s).pins = s.pins := rfl
@[simp] theorem callAddr_otherPins : (callAddr b s).otherPins = s.otherPins := rfl
@[simp] theorem callAddr_owm : (callAddr b s).owm = s.owm := rfl
@[simp] theorem callAddr_owmSaved : (callAddr b s).owmSaved = s.owmSaved := rfl
@[simp] theorem callAddr_irqInhibit : (callAddr b s).irqInhibit = s.irqInhibit := rfl
@[simp] theorem callAddr_busy : (callAddr b s).busy = s.busy := rfl
@[simp] theorem callAddr_status : (callAddr b s).status = s.status := rfl
@[simp] theorem callAddr_regs : (callAddr b s).regs = { s.regs with k := 0 } := rfl
@[simp] theorem callAddr_seq : (callAddr b s).seq = .run b (.addr .nRD) := rfl
@[simp] theorem callAddr_waitBound : (callAddr b s).waitBound = s.waitBound := rfl
@[simp] theorem callAddr_rfinClkLow : (callAddr b s).rfinClkLow = s.rfinClkLow := rfl
@[simp] theorem callAddr_port : (callAddr b s).port = s.port := rfl
@[simp] theorem callAddr_src : (callAddr b s).src = s.src := rfl
@[simp] theorem callAddr_dest : (callAddr b s).dest = s.dest := rfl
@[simp] theorem callAddr_readRun : (callAddr b s).readRun = s.readRun := rfl
@[simp] theorem callAddr_env : (callAddr b s).env = s.env := rfl
@[simp] theorem callAddr_oracle : (callAddr b s).oracle = s.oracle := rfl
@[simp] theorem callAddr_fix : (callAddr b s).fix = s.fix := rfl
@[simp] theorem callAddr_draws : (callAddr b s).draws = s.draws := rfl
@[simp] theorem callAddr_turns : (callAddr b s).turns = s.turns := rfl
end

section
variable (b : BlockPos) (w : Word) (s : State)
@[simp] theorem callWdata_pins : (callWdata b w s).pins = s.pins := rfl
@[simp] theorem callWdata_otherPins : (callWdata b w s).otherPins = s.otherPins := rfl
@[simp] theorem callWdata_owm : (callWdata b w s).owm = s.owm := rfl
@[simp] theorem callWdata_owmSaved : (callWdata b w s).owmSaved = s.owmSaved := rfl
@[simp] theorem callWdata_irqInhibit : (callWdata b w s).irqInhibit = s.irqInhibit := rfl
@[simp] theorem callWdata_busy : (callWdata b w s).busy = s.busy := rfl
@[simp] theorem callWdata_status : (callWdata b w s).status = s.status := rfl
@[simp] theorem callWdata_regs : (callWdata b w s).regs = { s.regs with w := w, k := 0 } := rfl
@[simp] theorem callWdata_seq : (callWdata b w s).seq = .run b (.wdata .nRD) := rfl
@[simp] theorem callWdata_waitBound : (callWdata b w s).waitBound = s.waitBound := rfl
@[simp] theorem callWdata_rfinClkLow : (callWdata b w s).rfinClkLow = s.rfinClkLow := rfl
@[simp] theorem callWdata_port : (callWdata b w s).port = s.port := rfl
@[simp] theorem callWdata_src : (callWdata b w s).src = s.src := rfl
@[simp] theorem callWdata_dest : (callWdata b w s).dest = s.dest := rfl
@[simp] theorem callWdata_readRun : (callWdata b w s).readRun = s.readRun := rfl
@[simp] theorem callWdata_env : (callWdata b w s).env = s.env := rfl
@[simp] theorem callWdata_oracle : (callWdata b w s).oracle = s.oracle := rfl
@[simp] theorem callWdata_fix : (callWdata b w s).fix = s.fix := rfl
@[simp] theorem callWdata_draws : (callWdata b w s).draws = s.draws := rfl
@[simp] theorem callWdata_turns : (callWdata b w s).turns = s.turns := rfl
end

section
variable (b : BlockPos) (s : State)
@[simp] theorem callRdata_pins : (callRdata b s).pins = s.pins := rfl
@[simp] theorem callRdata_otherPins : (callRdata b s).otherPins = s.otherPins := rfl
@[simp] theorem callRdata_owm : (callRdata b s).owm = s.owm := rfl
@[simp] theorem callRdata_owmSaved : (callRdata b s).owmSaved = s.owmSaved := rfl
@[simp] theorem callRdata_irqInhibit : (callRdata b s).irqInhibit = s.irqInhibit := rfl
@[simp] theorem callRdata_busy : (callRdata b s).busy = s.busy := rfl
@[simp] theorem callRdata_status : (callRdata b s).status = s.status := rfl
@[simp] theorem callRdata_regs : (callRdata b s).regs = { s.regs with k := 0 } := rfl
@[simp] theorem callRdata_seq : (callRdata b s).seq = .run b (.rdata .dir) := rfl
@[simp] theorem callRdata_waitBound : (callRdata b s).waitBound = s.waitBound := rfl
@[simp] theorem callRdata_rfinClkLow : (callRdata b s).rfinClkLow = s.rfinClkLow := rfl
@[simp] theorem callRdata_port : (callRdata b s).port = s.port := rfl
@[simp] theorem callRdata_src : (callRdata b s).src = s.src := rfl
@[simp] theorem callRdata_dest : (callRdata b s).dest = s.dest := rfl
@[simp] theorem callRdata_readRun : (callRdata b s).readRun = s.readRun := rfl
@[simp] theorem callRdata_env : (callRdata b s).env = s.env := rfl
@[simp] theorem callRdata_oracle : (callRdata b s).oracle = s.oracle := rfl
@[simp] theorem callRdata_fix : (callRdata b s).fix = s.fix := rfl
@[simp] theorem callRdata_draws : (callRdata b s).draws = s.draws := rfl
@[simp] theorem callRdata_turns : (callRdata b s).turns = s.turns := rfl
end

section
variable (b : BlockPos) (s : State)
@[simp] theorem callRfin_pins : (callRfin b s).pins = s.pins := rfl
@[simp] theorem callRfin_otherPins : (callRfin b s).otherPins = s.otherPins := rfl
@[simp] theorem callRfin_owm : (callRfin b s).owm = s.owm := rfl
@[simp] theorem callRfin_owmSaved : (callRfin b s).owmSaved = s.owmSaved := rfl
@[simp] theorem callRfin_irqInhibit : (callRfin b s).irqInhibit = s.irqInhibit := rfl
@[simp] theorem callRfin_busy : (callRfin b s).busy = s.busy := rfl
@[simp] theorem callRfin_status : (callRfin b s).status = s.status := rfl
@[simp] theorem callRfin_regs : (callRfin b s).regs = s.regs := rfl
@[simp] theorem callRfin_seq : (callRfin b s).seq = .run b (.rfin (rfinEntry s.rfinClkLow)) := rfl
@[simp] theorem callRfin_waitBound : (callRfin b s).waitBound = s.waitBound := rfl
@[simp] theorem callRfin_rfinClkLow : (callRfin b s).rfinClkLow = s.rfinClkLow := rfl
@[simp] theorem callRfin_port : (callRfin b s).port = s.port := rfl
@[simp] theorem callRfin_src : (callRfin b s).src = s.src := rfl
@[simp] theorem callRfin_dest : (callRfin b s).dest = s.dest := rfl
@[simp] theorem callRfin_readRun : (callRfin b s).readRun = s.readRun := rfl
@[simp] theorem callRfin_env : (callRfin b s).env = s.env := rfl
@[simp] theorem callRfin_oracle : (callRfin b s).oracle = s.oracle := rfl
@[simp] theorem callRfin_fix : (callRfin b s).fix = s.fix := rfl
@[simp] theorem callRfin_draws : (callRfin b s).draws = s.draws := rfl
@[simp] theorem callRfin_turns : (callRfin b s).turns = s.turns := rfl
end

section
variable (s : State)
@[simp] theorem toEnd_pins : (toEnd s).pins = s.pins := rfl
@[simp] theorem toEnd_otherPins : (toEnd s).otherPins = s.otherPins := rfl
@[simp] theorem toEnd_owm : (toEnd s).owm = s.owm := rfl
@[simp] theorem toEnd_owmSaved : (toEnd s).owmSaved = s.owmSaved := rfl
@[simp] theorem toEnd_irqInhibit : (toEnd s).irqInhibit = s.irqInhibit := rfl
@[simp] theorem toEnd_busy : (toEnd s).busy = s.busy := rfl
@[simp] theorem toEnd_status : (toEnd s).status = s.status := rfl
@[simp] theorem toEnd_regs : (toEnd s).regs = s.regs := rfl
@[simp] theorem toEnd_seq : (toEnd s).seq = .finish := rfl
@[simp] theorem toEnd_waitBound : (toEnd s).waitBound = s.waitBound := rfl
@[simp] theorem toEnd_rfinClkLow : (toEnd s).rfinClkLow = s.rfinClkLow := rfl
@[simp] theorem toEnd_port : (toEnd s).port = s.port := rfl
@[simp] theorem toEnd_src : (toEnd s).src = s.src := rfl
@[simp] theorem toEnd_dest : (toEnd s).dest = s.dest := rfl
@[simp] theorem toEnd_readRun : (toEnd s).readRun = s.readRun := rfl
@[simp] theorem toEnd_env : (toEnd s).env = s.env := rfl
@[simp] theorem toEnd_oracle : (toEnd s).oracle = s.oracle := rfl
@[simp] theorem toEnd_fix : (toEnd s).fix = s.fix := rfl
@[simp] theorem toEnd_draws : (toEnd s).draws = s.draws := rfl
@[simp] theorem toEnd_turns : (toEnd s).turns = s.turns := rfl
end

section
variable (s : State)
@[simp] theorem advanceWord_pins : (advanceWord s).pins = s.pins := rfl
@[simp] theorem advanceWord_otherPins : (advanceWord s).otherPins = s.otherPins := rfl
@[simp] theorem advanceWord_owm : (advanceWord s).owm = s.owm := rfl
@[simp] theorem advanceWord_owmSaved : (advanceWord s).owmSaved = s.owmSaved := rfl
@[simp] theorem advanceWord_irqInhibit : (advanceWord s).irqInhibit = s.irqInhibit := rfl
@[simp] theorem advanceWord_busy : (advanceWord s).busy = s.busy := rfl
@[simp] theorem advanceWord_status : (advanceWord s).status = s.status := rfl
@[simp] theorem advanceWord_regs : (advanceWord s).regs = { s.regs with a := nextAddress s.regs.a, i := s.regs.i + 1 } := rfl
@[simp] theorem advanceWord_seq : (advanceWord s).seq = s.seq := rfl
@[simp] theorem advanceWord_waitBound : (advanceWord s).waitBound = s.waitBound := rfl
@[simp] theorem advanceWord_rfinClkLow : (advanceWord s).rfinClkLow = s.rfinClkLow := rfl
@[simp] theorem advanceWord_port : (advanceWord s).port = s.port := rfl
@[simp] theorem advanceWord_src : (advanceWord s).src = s.src := rfl
@[simp] theorem advanceWord_dest : (advanceWord s).dest = s.dest := rfl
@[simp] theorem advanceWord_readRun : (advanceWord s).readRun = s.readRun := rfl
@[simp] theorem advanceWord_env : (advanceWord s).env = s.env := rfl
@[simp] theorem advanceWord_oracle : (advanceWord s).oracle = s.oracle := rfl
@[simp] theorem advanceWord_fix : (advanceWord s).fix = s.fix := rfl
@[simp] theorem advanceWord_draws : (advanceWord s).draws = s.draws := rfl
@[simp] theorem advanceWord_turns : (advanceWord s).turns = s.turns := rfl
end

section
variable (s : State)
@[simp] theorem storeDest_pins : (storeDest s).pins = s.pins := rfl
@[simp] theorem storeDest_otherPins : (storeDest s).otherPins = s.otherPins := rfl
@[simp] theorem storeDest_owm : (storeDest s).owm = s.owm := rfl
@[simp] theorem storeDest_owmSaved : (storeDest s).owmSaved = s.owmSaved := rfl
@[simp] theorem storeDest_irqInhibit : (storeDest s).irqInhibit = s.irqInhibit := rfl
@[simp] theorem storeDest_busy : (storeDest s).busy = s.busy := rfl
@[simp] theorem storeDest_status : (storeDest s).status = s.status := rfl
@[simp] theorem storeDest_regs : (storeDest s).regs = s.regs := rfl
@[simp] theorem storeDest_seq : (storeDest s).seq = s.seq := rfl
@[simp] theorem storeDest_waitBound : (storeDest s).waitBound = s.waitBound := rfl
@[simp] theorem storeDest_rfinClkLow : (storeDest s).rfinClkLow = s.rfinClkLow := rfl
@[simp] theorem storeDest_port : (storeDest s).port = s.port := rfl
@[simp] theorem storeDest_src : (storeDest s).src = s.src := rfl
@[simp] theorem storeDest_dest : (storeDest s).dest = destWrite s.dest s.regs.i.toNat s.regs.w := rfl
@[simp] theorem storeDest_readRun : (storeDest s).readRun = s.readRun := rfl
@[simp] theorem storeDest_env : (storeDest s).env = s.env := rfl
@[simp] theorem storeDest_oracle : (storeDest s).oracle = s.oracle := rfl
@[simp] theorem storeDest_fix : (storeDest s).fix = s.fix := rfl
@[simp] theorem storeDest_draws : (storeDest s).draws = s.draws := rfl
@[simp] theorem storeDest_turns : (storeDest s).turns = s.turns := rfl
end

section
variable (op : Op) (addr : HostAddress) (n : Count) (s : State)
@[simp] theorem accept_pins : (accept op addr n s).pins = s.pins := rfl
@[simp] theorem accept_otherPins : (accept op addr n s).otherPins = s.otherPins := rfl
@[simp] theorem accept_owm : (accept op addr n s).owm = s.owm := rfl
@[simp] theorem accept_owmSaved : (accept op addr n s).owmSaved = s.owmSaved := rfl
@[simp] theorem accept_irqInhibit : (accept op addr n s).irqInhibit = s.irqInhibit := rfl
@[simp] theorem accept_busy : (accept op addr n s).busy = true := rfl
@[simp] theorem accept_status : (accept op addr n s).status = s.status := rfl
@[simp] theorem accept_regs : (accept op addr n s).regs = { s.regs with op := op, a := trunc40 addr, n := n, i := 0 } := rfl
@[simp] theorem accept_seq : (accept op addr n s).seq = s.seq := rfl
@[simp] theorem accept_waitBound : (accept op addr n s).waitBound = s.waitBound := rfl
@[simp] theorem accept_rfinClkLow : (accept op addr n s).rfinClkLow = s.rfinClkLow := rfl
@[simp] theorem accept_port : (accept op addr n s).port = s.port.tail := rfl
@[simp] theorem accept_src : (accept op addr n s).src = offeredSrc s := rfl
@[simp] theorem accept_dest : (accept op addr n s).dest = s.dest := rfl
@[simp] theorem accept_readRun : (accept op addr n s).readRun = s.readRun := rfl
@[simp] theorem accept_env : (accept op addr n s).env = s.env := rfl
@[simp] theorem accept_oracle : (accept op addr n s).oracle = s.oracle := rfl
@[simp] theorem accept_fix : (accept op addr n s).fix = s.fix := rfl
@[simp] theorem accept_draws : (accept op addr n s).draws = s.draws := rfl
@[simp] theorem accept_turns : (accept op addr n s).turns = s.turns := rfl
end

section
variable (d : Descriptor) (s : State)
@[simp] theorem offerNext_pins : (offerNext d s).pins = s.pins := rfl
@[simp] theorem offerNext_otherPins : (offerNext d s).otherPins = s.otherPins := rfl
@[simp] theorem offerNext_owm : (offerNext d s).owm = s.owm := rfl
@[simp] theorem offerNext_owmSaved : (offerNext d s).owmSaved = s.owmSaved := rfl
@[simp] theorem offerNext_irqInhibit : (offerNext d s).irqInhibit = s.irqInhibit := rfl
@[simp] theorem offerNext_busy : (offerNext d s).busy = false := rfl
@[simp] theorem offerNext_status : (offerNext d s).status = s.status := rfl
@[simp] theorem offerNext_regs : (offerNext d s).regs = s.regs := rfl
@[simp] theorem offerNext_seq : (offerNext d s).seq = .idle := rfl
@[simp] theorem offerNext_waitBound : (offerNext d s).waitBound = s.waitBound := rfl
@[simp] theorem offerNext_rfinClkLow : (offerNext d s).rfinClkLow = s.rfinClkLow := rfl
@[simp] theorem offerNext_port : (offerNext d s).port = [{ desc := d, src := [], srcCount := 2 ^ 32, room := 2 ^ 32 }] := rfl
@[simp] theorem offerNext_src : (offerNext d s).src = s.src := rfl
@[simp] theorem offerNext_dest : (offerNext d s).dest = s.dest := rfl
@[simp] theorem offerNext_readRun : (offerNext d s).readRun = s.readRun := rfl
@[simp] theorem offerNext_env : (offerNext d s).env = s.env := rfl
@[simp] theorem offerNext_oracle : (offerNext d s).oracle = s.oracle := rfl
@[simp] theorem offerNext_fix : (offerNext d s).fix = s.fix := rfl
@[simp] theorem offerNext_draws : (offerNext d s).draws = s.draws := rfl
@[simp] theorem offerNext_turns : (offerNext d s).turns = [] := rfl
end

section
variable (op : Op) (n : Count) (s : State)
@[simp] theorem atCall_pins : (atCall op n s).pins =
    { clk := false, nRD := true, start := false, dir := .out, dout := s.pins.dout } := rfl
@[simp] theorem atCall_otherPins : (atCall op n s).otherPins = s.otherPins := rfl
@[simp] theorem atCall_owm : (atCall op n s).owm = s.owm := rfl
@[simp] theorem atCall_owmSaved : (atCall op n s).owmSaved = s.owmSaved := rfl
@[simp] theorem atCall_irqInhibit : (atCall op n s).irqInhibit = false := rfl
@[simp] theorem atCall_busy : (atCall op n s).busy = true := rfl
@[simp] theorem atCall_status : (atCall op n s).status = s.status := rfl
@[simp] theorem atCall_regs : (atCall op n s).regs = { s.regs with op := op, i := 0, n := n } := rfl
@[simp] theorem atCall_seq : (atCall op n s).seq = s.seq := rfl
@[simp] theorem atCall_waitBound : (atCall op n s).waitBound = s.waitBound := rfl
@[simp] theorem atCall_rfinClkLow : (atCall op n s).rfinClkLow = s.rfinClkLow := rfl
@[simp] theorem atCall_port : (atCall op n s).port = s.port := rfl
@[simp] theorem atCall_src : (atCall op n s).src = s.src := rfl
@[simp] theorem atCall_dest : (atCall op n s).dest = s.dest := rfl
@[simp] theorem atCall_readRun : (atCall op n s).readRun = false := rfl
@[simp] theorem atCall_env : (atCall op n s).env = s.env := rfl
@[simp] theorem atCall_oracle : (atCall op n s).oracle = s.oracle := rfl
@[simp] theorem atCall_fix : (atCall op n s).fix = { s.fix with drive := none } := rfl
@[simp] theorem atCall_draws : (atCall op n s).draws = s.draws := rfl
@[simp] theorem atCall_turns : (atCall op n s).turns = [] := rfl
end

end Sys2Proof.Machine
end

