-- ==== Sys2Proof/Laws/Ops.lean ====
section
/-! SUPPORT. For each shared operation, what it can do said once, and the fields it leaves alone. -/

namespace Sys2Proof.Machine

/-- The responder's reaction to an action changes its own state, and draws at most one free value. -/
theorem watch_eq (q : Pins) (s : State) : ∃ f d, watch q s = { s with fix := f, draws := d } := by
  unfold watch
  split
  · exact ⟨_, _, rfl⟩
  · simp only []
    split
    · unfold latchWires
      split
      · exact ⟨_, _, rfl⟩
      · exact ⟨_, _, rfl⟩
    · split
      · exact ⟨_, _, rfl⟩
      · exact ⟨_, _, rfl⟩

/-- An oracle at the far end does not react. -/
theorem watch_of_oracle {s : State} (q : Pins) (h : s.env = .oracle) : watch q s = s := by
  unfold watch
  rw [h]

section
variable (q : Pins) (s : State)
@[simp] theorem watch_pins : (watch q s).pins = s.pins := by
  obtain ⟨f, d, h⟩ := watch_eq q s; rw [h]
@[simp] theorem watch_otherPins : (watch q s).otherPins = s.otherPins := by
  obtain ⟨f, d, h⟩ := watch_eq q s; rw [h]
@[simp] theorem watch_owm : (watch q s).owm = s.owm := by
  obtain ⟨f, d, h⟩ := watch_eq q s; rw [h]
@[simp] theorem watch_owmSaved : (watch q s).owmSaved = s.owmSaved := by
  obtain ⟨f, d, h⟩ := watch_eq q s; rw [h]
@[simp] theorem watch_irqInhibit : (watch q s).irqInhibit = s.irqInhibit := by
  obtain ⟨f, d, h⟩ := watch_eq q s; rw [h]
@[simp] theorem watch_busy : (watch q s).busy = s.busy := by
  obtain ⟨f, d, h⟩ := watch_eq q s; rw [h]
@[simp] theorem watch_status : (watch q s).status = s.status := by
  obtain ⟨f, d, h⟩ := watch_eq q s; rw [h]
@[simp] theorem watch_regs : (watch q s).regs = s.regs := by
  obtain ⟨f, d, h⟩ := watch_eq q s; rw [h]
@[simp] theorem watch_seq : (watch q s).seq = s.seq := by
  obtain ⟨f, d, h⟩ := watch_eq q s; rw [h]
@[simp] theorem watch_waitBound : (watch q s).waitBound = s.waitBound := by
  obtain ⟨f, d, h⟩ := watch_eq q s; rw [h]
@[simp] theorem watch_rfinClkLow : (watch q s).rfinClkLow = s.rfinClkLow := by
  obtain ⟨f, d, h⟩ := watch_eq q s; rw [h]
@[simp] theorem watch_port : (watch q s).port = s.port := by
  obtain ⟨f, d, h⟩ := watch_eq q s; rw [h]
@[simp] theorem watch_src : (watch q s).src = s.src := by
  obtain ⟨f, d, h⟩ := watch_eq q s; rw [h]
@[simp] theorem watch_dest : (watch q s).dest = s.dest := by
  obtain ⟨f, d, h⟩ := watch_eq q s; rw [h]
@[simp] theorem watch_readRun : (watch q s).readRun = s.readRun := by
  obtain ⟨f, d, h⟩ := watch_eq q s; rw [h]
@[simp] theorem watch_env : (watch q s).env = s.env := by
  obtain ⟨f, d, h⟩ := watch_eq q s; rw [h]
@[simp] theorem watch_oracle : (watch q s).oracle = s.oracle := by
  obtain ⟨f, d, h⟩ := watch_eq q s; rw [h]
@[simp] theorem watch_turns : (watch q s).turns = s.turns := by
  obtain ⟨f, d, h⟩ := watch_eq q s; rw [h]
end

section
variable (q : Pins) (s : State)
@[simp] theorem setPins_pins : (setPins q s).pins = q := by
  simp [setPins]
@[simp] theorem setPins_otherPins : (setPins q s).otherPins = s.otherPins := by
  simp [setPins]
@[simp] theorem setPins_owm : (setPins q s).owm = s.owm := by
  simp [setPins]
@[simp] theorem setPins_owmSaved : (setPins q s).owmSaved = s.owmSaved := by
  simp [setPins]
@[simp] theorem setPins_irqInhibit : (setPins q s).irqInhibit = s.irqInhibit := by
  simp [setPins]
@[simp] theorem setPins_busy : (setPins q s).busy = s.busy := by
  simp [setPins]
@[simp] theorem setPins_status : (setPins q s).status = s.status := by
  simp [setPins]
@[simp] theorem setPins_regs : (setPins q s).regs = s.regs := by
  simp [setPins]
@[simp] theorem setPins_seq : (setPins q s).seq = s.seq := by
  simp [setPins]
@[simp] theorem setPins_waitBound : (setPins q s).waitBound = s.waitBound := by
  simp [setPins]
@[simp] theorem setPins_rfinClkLow : (setPins q s).rfinClkLow = s.rfinClkLow := by
  simp [setPins]
@[simp] theorem setPins_port : (setPins q s).port = s.port := by
  simp [setPins]
@[simp] theorem setPins_src : (setPins q s).src = s.src := by
  simp [setPins]
@[simp] theorem setPins_dest : (setPins q s).dest = s.dest := by
  simp [setPins]
@[simp] theorem setPins_readRun : (setPins q s).readRun = s.readRun := by
  simp [setPins]
@[simp] theorem setPins_env : (setPins q s).env = s.env := by
  simp [setPins]
@[simp] theorem setPins_oracle : (setPins q s).oracle = s.oracle := by
  simp [setPins]
@[simp] theorem setPins_turns : (setPins q s).turns = s.turns := by
  simp [setPins]
end

/-- A sample of nWAIT takes from the environment only: the oracle's draws, the counter, or the wait's count of zeros. -/
theorem sampleNWait_eq (s : State) : ∃ o d n,
    (sampleNWait s).2 = { s with oracle := o, draws := d, fix := { s.fix with polled := n } } := by
  unfold sampleNWait
  split
  · split <;> exact ⟨_, _, s.fix.polled, rfl⟩
  · split
    · exact ⟨s.oracle, s.draws, s.fix.polled, rfl⟩
    · split
      · exact ⟨s.oracle, s.draws, _, rfl⟩
      · exact ⟨s.oracle, s.draws, s.fix.polled, rfl⟩

/-- An oracle's sample that it has lined up. -/
theorem sampleNWait_of_lined_up {s : State} {v : Bool} {vs : List Bool} (he : s.env = .oracle) (h : s.oracle.nWait = v :: vs) :
    sampleNWait s = (v, { s with oracle := { s.oracle with nWait := vs } }) := by
  unfold sampleNWait; rw [he]; simp only [h]

/-- An oracle's sample that it draws. -/
theorem sampleNWait_of_draw {s : State} (he : s.env = .oracle) (h : s.oracle.nWait = []) :
    sampleNWait s = (Config.nWaitDraw s.draws, { s with draws := s.draws + 1 }) := by
  unfold sampleNWait; rw [he]; simp only [h]

/-- The reference responder's sample with a delay of `d`: 0 while fewer than `d` zeros have been sampled, then 1 (R88). -/
theorem sampleNWait_of_delay {s : State} {d : Nat} (he : s.env = .fixture)
    (hd : scriptDelay s.fix.script s.fix.waits = some d) :
    sampleNWait s = if s.fix.polled < d then (false, { s with fix := { s.fix with polled := s.fix.polled + 1 } }) else (true, s) := by
  unfold sampleNWait; rw [he]; simp only [hd]

/-- The reference responder's sample with an infinite delay: 0, and nothing changes (R88). -/
theorem sampleNWait_of_infinity {s : State} (he : s.env = .fixture)
    (hd : scriptDelay s.fix.script s.fix.waits = none) : sampleNWait s = (false, s) := by
  unfold sampleNWait; rw [he]; simp only [hd]

/-- A listed ordinal has the delay listed. -/
theorem scriptDelay_listed {c : Script} {j : Nat} {d : Option Nat} (h : c.listed[j]? = some d) : scriptDelay c j = d := by
  unfold scriptDelay; rw [h]

/-- Past the list, a script with one delay for all the rest has that one. -/
theorem scriptDelay_all {c : Script} {j : Nat} {d : Option Nat} (h : c.listed.length ≤ j) (hb : c.beyond = .all d) :
    scriptDelay c j = d := by
  unfold scriptDelay; rw [List.getElem?_eq_none h]; simp only [hb]

/-- A data sample takes from the environment only. -/
theorem sampleData_eq (s : State) : ∃ o d, (sampleData s).2 = { s with oracle := o, draws := d } := by
  unfold sampleData
  split
  · split <;> exact ⟨_, _, rfl⟩
  · split <;> exact ⟨s.oracle, _, rfl⟩

/-- The end of a wait moves the reference responder on to its next. -/
theorem waitOver_eq (s : State) :
    waitOver s = { s with fix := if s.env = .fixture then { s.fix with waits := s.fix.waits + 1, polled := 0 } else s.fix } := by
  unfold waitOver
  split
  · next h => rw [if_neg (by rw [h]; decide)]
  · next h => rw [if_pos h]

/-- The head of a wait clears POLLS where it exists. -/
theorem enterWait_eq (s : State) :
    enterWait s = { s with regs := { s.regs with polls := if s.waitBound = none then s.regs.polls else 0 } } := by
  unfold enterWait
  split
  · next h => rw [if_pos h]
  · next h => rw [if_neg (by rw [h]; exact nofun)]

/-- A sample of 0 is counted in POLLS where it exists. -/
theorem countPoll_eq (s : State) :
    countPoll s = { s with regs := { s.regs with polls := if s.waitBound = none then s.regs.polls else s.regs.polls + 1 } } := by
  unfold countPoll
  split
  · next h => rw [if_pos h]
  · next h => rw [if_neg (by rw [h]; exact nofun)]

/-- The entry of ACK_TIMEOUT, written out (R214). -/
theorem raiseAckTimeout_eq (w : WaitKind) (s : State) :
    raiseAckTimeout w s = { s with
      status := statusAckTimeout w s.regs.i s.regs.a
      busy := false
      seq := .idle
      readRun := false
      fix := if s.env = .fixture then { s.fix with waits := s.fix.waits + 1, polled := 0 } else s.fix } := waitOver_eq _

/-- With WAIT_BOUND none the head of a wait does nothing. -/
theorem enterWait_unbounded {s : State} (h : s.waitBound = none) : enterWait s = s := by
  unfold enterWait; rw [h]

/-- With WAIT_BOUND none a sample of 0 is not counted. -/
theorem countPoll_unbounded {s : State} (h : s.waitBound = none) : countPoll s = s := by
  unfold countPoll; rw [h]

/-- With WAIT_BOUND none the bound is never reached. -/
theorem boundReached_unbounded {s : State} (h : s.waitBound = none) : boundReached s = false := by
  unfold boundReached; rw [h]

/-- One step at a WAIT position, in three cases (R139). -/
theorem waitStep_cases (w : WaitKind) (cont : State → State) (s : State) :
    (boundReached s = true ∧ waitStep w cont s = raiseAckTimeout w s) ∨
    (boundReached s = false ∧ (sampleNWait s).1 = true ∧ waitStep w cont s = cont (waitOver (sampleNWait s).2)) ∨
    (boundReached s = false ∧ (sampleNWait s).1 = false ∧ waitStep w cont s = countPoll (sampleNWait s).2) := by
  unfold waitStep
  by_cases hb : boundReached s = true
  · exact .inl ⟨hb, by simp [hb]⟩
  · have hf : boundReached s = false := by simpa using hb
    refine .inr ?_
    rw [hf]
    rcases hr : sampleNWait s with ⟨v, t⟩
    cases v
    · exact .inr ⟨rfl, rfl, rfl⟩
    · exact .inl ⟨rfl, rfl, rfl⟩

/-- The masked write inside a critical section sets DATA and START and no other pin (R133). -/
theorem maskedPins_mBus (b : Byte) (v : Bool) (q : Pins) :
    maskedPins mBus b v q = { q with dout := b, start := v } := by
  have e : mBus.data = BitVec.allOnes 8 := by decide
  have h : (q.dout &&& ~~~mBus.data) ||| (b &&& mBus.data) = b := by
    rw [e, BitVec.not_allOnes, BitVec.and_zero, BitVec.zero_or, BitVec.and_allOnes]
  simp only [maskedPins, h]
  simp [mBus]

theorem maskedOthers_mBus (v : Nat) : maskedOthers mBus v = v := by simp [maskedOthers, mBus]

/-- The loop of POKE changes the sequencer position and W and K, nothing else. -/
theorem pokeLoop_eq (s : State) : ∃ q w k, pokeLoop s = { s with seq := q, regs := { s.regs with w := w, k := k } } := by
  unfold pokeLoop
  split
  · split
    · exact ⟨_, s.regs.w, _, rfl⟩
    · exact ⟨_, _, _, rfl⟩
  · exact ⟨_, s.regs.w, s.regs.k, rfl⟩

/-- The loop of PEEK changes the sequencer position and K, nothing else. -/
theorem peekLoop_eq (s : State) : ∃ q k, peekLoop s = { s with seq := q, regs := { s.regs with k := k } } := by
  unfold peekLoop
  split
  · split
    · exact ⟨_, s.regs.k, rfl⟩
    · exact ⟨_, _, rfl⟩
  · exact ⟨_, s.regs.k, rfl⟩

/-- Block control changes the sequencer position, the working registers and DEST, nothing else. -/
theorem afterCall_eq (b : BlockPos) (s : State) : ∃ q r d, afterCall b s = { s with seq := q, regs := r, dest := d } := by
  unfold afterCall
  split
  · split
    · exact ⟨_, _, _, rfl⟩
    · obtain ⟨q, k, h⟩ := peekLoop_eq s
      exact ⟨_, _, _, h⟩
  · exact ⟨_, _, _, rfl⟩
  · exact ⟨_, _, _, rfl⟩
  · split
    · obtain ⟨q, w, k, h⟩ := pokeLoop_eq (advanceWord s)
      exact ⟨_, _, _, h⟩
    · obtain ⟨q, k, h⟩ := peekLoop_eq (advanceWord (storeDest s))
      exact ⟨_, _, _, h⟩
  · exact ⟨_, _, _, rfl⟩

/-- A latched beat keeps the canonical form of the memory. -/
theorem latchBeat_wf (st : Bool) (d : Byte) {f : Fixture} (h : Memory.wf f.mem = true) :
    Memory.wf (latchBeat st d f).mem = true := by
  unfold latchBeat
  split
  · exact h
  · split
    · exact h
    · simp only []
      split
      · exact Memory.wf_writeWord _ _ h
      · exact h

theorem turnBus_mem (x y : Bool) (f : Fixture) : (turnBus x y f).mem = f.mem := by
  unfold turnBus
  split
  · rfl
  · split <;> rfl

theorem presentByte_mem (f : Fixture) : (presentByte f).mem = f.mem := by
  unfold presentByte
  simp only []
  split <;> rfl

theorem latchWires_wf {s : State} (h : Memory.wf s.fix.mem = true) : Memory.wf (latchWires s).fix.mem = true := by
  unfold latchWires
  split <;> exact latchBeat_wf _ _ h

/-- Every reaction of the reference responder keeps the canonical form of the memory. -/
theorem watch_wf (q : Pins) {s : State} (h : Memory.wf s.fix.mem = true) : Memory.wf (watch q s).fix.mem = true := by
  unfold watch
  split
  · exact h
  · simp only []
    split
    · refine latchWires_wf ?_
      simp only [turnBus_mem, h]
    · split
      · simp only [presentByte_mem, turnBus_mem, h]
      · simp only [turnBus_mem, h]

/-- A latched beat writes no byte outside the word at the pointer (R86). -/
theorem latchBeat_readByte_outside (st : Bool) (d : Byte) (f : Fixture) {key : Nat}
    (h : key < byteKey f.ptr 0 ∨ byteKey f.ptr 3 < key) : readByte (latchBeat st d f).mem key = readByte f.mem key := by
  have h' : key < 4 * f.ptr.toNat ∨ 4 * f.ptr.toNat + 4 ≤ key := by unfold byteKey at h; omega
  unfold latchBeat
  split
  · rfl
  · split
    · rfl
    · simp only []
      split
      · exact readByte_writeWord_other _ _ _ h'
      · rfl

theorem turnBus_ptr (x y : Bool) (f : Fixture) : (turnBus x y f).ptr = f.ptr := by
  unfold turnBus
  split
  · rfl
  · split <;> rfl

theorem latchWires_readByte_outside {s : State} {key : Nat} (h : key < byteKey s.fix.ptr 0 ∨ byteKey s.fix.ptr 3 < key) :
    readByte (latchWires s).fix.mem key = readByte s.fix.mem key := by
  unfold latchWires
  split <;> exact latchBeat_readByte_outside _ _ _ h

/-- A change of levels writes no byte outside the word at the responder's pointer. -/
theorem setPins_readByte_outside (p : Pins) {s : State} {key : Nat} (h : key < byteKey s.fix.ptr 0 ∨ byteKey s.fix.ptr 3 < key) :
    readByte (setPins p s).fix.mem key = readByte s.fix.mem key := by
  unfold setPins watch
  split
  · rfl
  · simp only []
    split
    · refine (latchWires_readByte_outside ?_).trans ?_
      · simpa only [turnBus_ptr] using h
      · simp only [turnBus_mem]
    · split <;> simp only [presentByte_mem, turnBus_mem]

/-- Without a falling edge of CLK at nRD = 1 a change of levels writes no memory (R86). -/
theorem setPins_mem {p : Pins} {s : State} (h : p.clk = s.pins.clk ∨ p.clk = true ∨ p.nRD = false) :
    (setPins p s).fix.mem = s.fix.mem := by
  unfold setPins watch
  split
  · rfl
  · simp only []
    split
    · next hc => simp only [Bool.and_eq_true, Bool.not_eq_true'] at hc; rcases h with h | h | h <;> simp_all
    · split <;> simp only [presentByte_mem, turnBus_mem]

/-- Without a change of CLK or nRD the responder does not react (R85). -/
theorem setPins_of_same_edges {p : Pins} {s : State} (hc : p.clk = s.pins.clk) (hn : p.nRD = s.pins.nRD) :
    setPins p s = { s with pins := p } := by
  unfold setPins watch
  split
  · rfl
  · have ht : turnBus s.pins.nRD s.pins.nRD s.fix = s.fix := by unfold turnBus; cases s.pins.nRD <;> rfl
    simp only [hc, hn, ht]
    cases s.pins.clk <;> rfl

theorem setPins_wf (p : Pins) {s : State} (h : Memory.wf s.fix.mem = true) : Memory.wf (setPins p s).fix.mem = true :=
  watch_wf _ h

/-- Every action keeps the canonical form of the memory. -/
theorem perform_wf (x : Action) {s : State} (h : Memory.wf s.fix.mem = true) : Memory.wf (perform x s).fix.mem = true := by
  cases x with
  | pin p v => exact setPins_wf _ h
  | dir d => exact setPins_wf _ h
  | mwrite b v => exact setPins_wf _ (by exact h)
  | sampleData =>
    obtain ⟨o, d, e⟩ := sampleData_eq s
    simp only [perform, readBeat, e, h]
  | sampleNWait =>
    obtain ⟨o, d, n, e⟩ := sampleNWait_eq s
    simp only [perform, e, h]
  | inhibit v => exact h
  | saveOwm => exact h
  | writeOwmBus => exact h
  | restoreOwm => exact h

end Sys2Proof.Machine
end

