-- ==== Sys2Proof/Laws/PerInstr.lean ====
section
/-! SUPPORT. Statements about every operation, one lemma per constructor of Instr. -/

namespace Sys2Proof.Laws

/-- The code of an operation has no bit above its width. -/
def EncodeFits.Statement (i : Instr) : Prop := encode i < 2 ^ codeWidth i

theorem EncodeFits.poke (addr : HostAddress) (n : Count) : EncodeFits.Statement (.poke addr n) :=
  (mkDescriptor 0x01 n addr).isLt

theorem EncodeFits.peek (addr : HostAddress) (n : Count) : EncodeFits.Statement (.peek addr n) :=
  (mkDescriptor 0x02 n addr).isLt

theorem EncodeFits.addr (a : Address) : EncodeFits.Statement (.addr a) := by
  simp only [EncodeFits.Statement, encode, wireSymbols, joinSymbols, codeWidth]
  have h0 := (mkSymbol true true (byteOfAddress a 0)).isLt
  have h1 := (mkSymbol true false (byteOfAddress a 1)).isLt
  have h2 := (mkSymbol true false (byteOfAddress a 2)).isLt
  have h3 := (mkSymbol true false (byteOfAddress a 3)).isLt
  have h4 := (mkSymbol true false (byteOfAddress a 4)).isLt
  omega

theorem EncodeFits.wdata (w : Word) : EncodeFits.Statement (.wdata w) := by
  simp only [EncodeFits.Statement, encode, wireSymbols, joinSymbols, codeWidth]
  have h0 := (mkSymbol true false (byteOfWord w 0)).isLt
  have h1 := (mkSymbol true false (byteOfWord w 1)).isLt
  have h2 := (mkSymbol true false (byteOfWord w 2)).isLt
  have h3 := (mkSymbol true false (byteOfWord w 3)).isLt
  omega

theorem EncodeFits.rdata : EncodeFits.Statement .rdata := by
  unfold EncodeFits.Statement; decide

theorem EncodeFits.rfin : EncodeFits.Statement .rfin := by
  unfold EncodeFits.Statement; decide

end Sys2Proof.Laws
end

