-- ==== Sys2Proof/Laws/Step.lean ====
section
/-! SUPPORT. What a step can be, said once: a step that answers a next state ran one instruction or made one move of its own;
and what each meaning is at a position of its primitive. -/

namespace Sys2Proof.Machine

/-- A step to a next state either runs an instruction or rests in it. -/
theorem step_cases {s t : State} (h : step s = .next t) :
    (∃ i u, nextMove s = .run i u ∧ exec i u = .next t) ∨ nextMove s = .rest t := by
  unfold step at h
  split at h
  · next i u hm => exact .inl ⟨i, u, hm, h⟩
  · next u hm => cases h; exact .inr hm
  · cases h

/-- Whose move it is. -/
theorem nextMove_cases (s : State) :
    (s.turns = [] ∧ nextMove s = engineMove s) ∨
    (∃ ts, s.turns = .engine :: ts ∧ nextMove s = engineMove { s with turns := ts }) ∨
    (∃ w ts, s.turns = .handler w :: ts ∧ s.irqInhibit = true ∧ nextMove s = engineMove s) ∨
    (∃ w ts, s.turns = .handler w :: ts ∧ s.irqInhibit = false ∧ nextMove s = handlerMove w { s with turns := ts }) ∨
    (∃ b c ts, s.turns = .configure b c :: ts ∧ nextMove s = configureMove b c { s with turns := ts }) := by
  unfold nextMove
  split
  · next h => exact .inl ⟨h, rfl⟩
  · next ts h => exact .inr (.inl ⟨ts, h, rfl⟩)
  · next w ts h =>
    cases hi : s.irqInhibit
    · exact .inr (.inr (.inr (.inl ⟨w, ts, h, rfl, by simp⟩)))
    · exact .inr (.inr (.inl ⟨w, ts, h, rfl, by simp⟩))
  · next b c ts h => exact .inr (.inr (.inr (.inr ⟨b, c, ts, h, rfl⟩)))

/-- What the engine's move is. -/
theorem engineMove_cases (s : State) :
    (s.seq = .idle ∧ s.busy = true ∧ engineMove s = .rest s) ∨
    (s.seq = .idle ∧ s.busy = false ∧ engineMove s = portMove s) ∨
    (∃ b p, s.seq = .run b p ∧ engineMove s = .run (primInstr s.regs p) s) ∨
    (s.seq = .finish ∧ engineMove s = .rest (endCommand s)) := by
  unfold engineMove
  split
  · next h =>
    cases hb : s.busy
    · exact .inr (.inl ⟨h, rfl, by simp⟩)
    · exact .inl ⟨h, rfl, by simp⟩
  · next b p h => exact .inr (.inr (.inl ⟨b, p, h, rfl⟩))
  · next h => exact .inr (.inr (.inr ⟨h, rfl⟩))

/-- What the port's move is. -/
theorem portMove_cases (s : State) :
    (s.port = [] ∧ portMove s = .rest s) ∨
    (∃ o r i, s.port = o :: r ∧ decodeDescriptor o.desc = .ok i ∧ portMove s = .run i s) ∨
    (∃ o r e, s.port = o :: r ∧ decodeDescriptor o.desc = .error e ∧ portMove s = .rest (refuseContract s)) := by
  unfold portMove
  split
  · next h => exact .inl ⟨h, rfl⟩
  · next o r h =>
    split
    · next i hi => exact .inr (.inl ⟨o, r, i, h, hi, rfl⟩)
    · next e he => exact .inr (.inr ⟨o, r, e, h, he, rfl⟩)

section
variable {s : State} {b : BlockPos}

theorem exec_addr_inFlight {p : AddrPos} (a : Address) (h : s.seq = .run b (.addr p)) :
    exec (.addr a) s = .next (addrStep a b p s) := by simp only [exec, execAddr, h]

theorem exec_wdata_inFlight {p : WdataPos} (w : Word) (h : s.seq = .run b (.wdata p)) :
    exec (.wdata w) s = .next (wdataStep w b p s) := by simp only [exec, execWdata, h]

theorem exec_rdata_inFlight {p : RdataPos} (h : s.seq = .run b (.rdata p)) :
    exec .rdata s = .next (rdataStep b p s) := by simp only [exec, execRdata, h]

theorem exec_rfin_inFlight {p : RfinPos} (h : s.seq = .run b (.rfin p)) :
    exec .rfin s = .next (rfinStep b p s) := by simp only [exec, execRfin, h]

end

/-! ### Where a fetch finds its instruction (logs 13 and 24) -/

theorem fetchNext_descriptor (s : State) (w : Nat) : fetchNext s 128 w = offerNext (BitVec.ofNat 128 w) s := rfl

section
variable {s : State} {nbits w : Nat}

theorem fetchNext_addr {a : Address} (hn : nbits ≠ 128) (h : decodeBits nbits w = .ok (.addr a)) :
    fetchNext s nbits w = callAddr .head { atCall .poke 1 s with regs := { (atCall .poke 1 s).regs with a := a } } := by
  simp only [fetchNext, if_neg hn, h]

theorem fetchNext_wdata {v : Word} (hn : nbits ≠ 128) (h : decodeBits nbits w = .ok (.wdata v)) :
    fetchNext s nbits w = callWdata .xfer v (atCall .poke 1 s) := by
  simp only [fetchNext, if_neg hn, h]

theorem fetchNext_rdata (hn : nbits ≠ 128) (h : decodeBits nbits w = .ok .rdata) :
    fetchNext s nbits w = callRdata .xfer (atCall .peek 1 s) := by
  simp only [fetchNext, if_neg hn, h]

theorem fetchNext_rfin (hn : nbits ≠ 128) (h : decodeBits nbits w = .ok .rfin) :
    fetchNext s nbits w = callRfin .last (atCall .peek 0 s) := by
  simp only [fetchNext, if_neg hn, h]

end

end Sys2Proof.Machine
end

