-- ==== Sys2Proof/Tests/Slice0.lean ====
section
/-! SUPPORT. Tests: decoding of words written out from the spec's encodings, refusals of ill-formed terms, single steps with the
results of 95_test_vectors.md, and for every statement with hypotheses a concrete state that meets them. -/

namespace Sys2Proof.Tests

open Sys2Proof.Machine

/-! ### Ill-formed terms (R9, R106, R110 to R113) -/

theorem test_opcode_three_is_ill_formed : opcodeOk 0x03 = false := by decide
theorem test_reserved_one_is_ill_formed : reservedOk 1 = false := by decide
theorem test_poke_with_too_few_words_is_ill_formed : streamOk (.poke 0 3) 2 9 = false := by decide
theorem test_peek_with_too_little_room_is_ill_formed : streamOk (.peek 0 3) 9 2 = false := by decide
theorem test_symbol_nRD0_START1_is_ill_formed : symbolOk 0b0100000000 = false := by decide
theorem test_bound_zero_is_ill_formed : boundOk (some 0) = false := by decide

/-! ### Decoding: words written out bit by bit (R101 to R105, R110; vectors E1 to E16) -/

/-- E1: OPC 0x01, RSV 0, N 1, ADDR 0x0000000102030405. -/
theorem test_decode_poke : decodeTableWord 128 0x01000000_00000001_00000001_02030405 = some (.poke 0x0000000102030405 1) := by decide
/-- E7: the largest N and the largest address. -/
theorem test_decode_peek : decodeTableWord 128 0x02000000_FFFFFFFF_000000FF_FFFFFFFF = some (.peek 0x000000FFFFFFFFFF 0xFFFFFFFF) := by decide
/-- E12: 11_00000101 10_00000100 10_00000011 10_00000010 10_00000001. -/
theorem test_decode_addr :
    decodeTableWord 56 0b11_00000101_10_00000100_10_00000011_10_00000010_10_00000001 = some (.addr 0x0102030405) := by decide
/-- E13: 10_01111000 10_01010110 10_00110100 10_00010010. -/
theorem test_decode_wdata :
    decodeTableWord 40 0b10_01111000_10_01010110_10_00110100_10_00010010 = some (.wdata 0x12345678) := by decide
/-- E14: 00_01111000 00_01010110 00_00110100 00_00010010. -/
theorem test_decode_rdata : decodeTableWord 40 0b00_01111000_00_01010110_00_00110100_00_00010010 = some .rdata := by decide
/-- R118: the control levels 10. -/
theorem test_decode_rfin : decodeTableWord 8 0b10 = some .rfin := by decide
/-- E8 to E11. -/
theorem test_decode_refuses_opcode_zero : decodeTableWord 128 0 = none := by decide
theorem test_decode_refuses_reserved : decodeTableWord 128 0x01000001_00000001_00000000_00000000 = none := by decide
theorem test_decode_refuses_START_on_beat_one :
    decodeTableWord 56 0b11_00000101_11_00000100_10_00000011_10_00000010_10_00000001 = none := by decide
theorem test_decode_refuses_mixed_nRD : decodeTableWord 40 0b10_01111000_00_01010110_10_00110100_10_00010010 = none := by decide
/-- R107: the tenth symbol 0x201 is a data byte. -/
theorem test_decode_wire : decodeWire ⟨[], [], []⟩
    [0x305, 0x204, 0x203, 0x202, 0x201, 0x278, 0x256, 0x234, 0x212, 0x201, 0x200, 0x200, 0x200] =
      some [.address 0x0102030405, .wrote 0x12345678, .wrote 0x00000001] := by decide

/-! ### States to step from -/

/-- A next state that passes a check. -/
def nextIs (o : Host.Outcome State Fault Refusal) (f : State → Bool) : Bool :=
  match o with
  | .next t => f t
  | .fault _ => false
  | .refused _ => false

/-- The reference responder at the far end, the platform's mask holding pin 4. -/
def bench : State := { State.reset with
  env := .fixture
  owm := { data := 0, start := false, clk := false, nRD := false, nWAIT := false, others := 16 } }

/-- The bench inside a command, at a position. -/
def inCommand (op : Op) (b : BlockPos) (p : PrimPos) (i n : Count) (a : Address) : State := { bench with
  busy := true
  seq := .run b p
  regs := { bench.regs with op := op, a := a, i := i, n := n } }

/-- An offer of a command with two source words and room for two. -/
def offerOf (opc : Byte) (n : Count) (addr : HostAddress) : Offer :=
  { desc := mkDescriptor opc n addr, src := [0x11, 0x22], srcCount := 2, room := 2 }

/-- In the critical section of the first ADDR of a POKE of two words at 0xFE, before beat 0. -/
def beforeBeat : State := { inCommand .poke .head (.addr .drv) 0 2 0xFE with
  irqInhibit := true
  owm := mBus
  owmSaved := bench.owm
  src := [0x11, 0x22]
  pins := { bench.pins with start := true } }

/-- The fourth beat of WDATA(0x12345678) with CLK at 1, the responder one byte short of the word. -/
def lastWriteBeat : State := { inCommand .poke .xfer (.wdata .lo) 0 1 0x0102030405 with
  irqInhibit := true
  owm := mBus
  owmSaved := bench.owm
  src := [0x12345678]
  regs := { (inCommand .poke .xfer (.wdata .lo) 0 1 0x0102030405).regs with w := 0x12345678, k := 3 }
  pins := { clk := true, nRD := true, start := false, dir := .out, dout := 0x12 }
  fix := { bench.fix with ptr := 0x0102030405, wcnt := 3, sh := 0x00345678 } }

/-- At A.WAIT of the second page of a POKE (T5), the responder silent for ever. -/
def silentWait (bound : Option Nat) (polls : Nat) : State := { inCommand .poke .head (.addr .wait) 1 3 0x400 with
  waitBound := bound
  regs := { (inCommand .poke .head (.addr .wait) 1 3 0x400).regs with polls := polls }
  pins := { bench.pins with start := true }
  fix := { bench.fix with script := { listed := [none], beyond := .all (some 0) } } }

/-- A PEEK of two words at 0xFF, at the last sample of its first word, before the page boundary. -/
def pageCrossing : State := { inCommand .peek .xfer (.rdata .smp) 0 2 0xFF with
  readRun := true
  regs := { (inCommand .peek .xfer (.rdata .smp) 0 2 0xFF).regs with k := 3 }
  pins := { clk := true, nRD := false, start := false, dir := .inp, dout := 0 }
  fix := { bench.fix with ptr := 0, drive := some 0 } }

/-! ### Single steps, with the results of 95_test_vectors.md -/

/-- P-A1, A1: MWRITE(0x05, 1) puts the low byte on DATA with START = 1. -/
theorem test_addr_beat_zero_sends_low_byte_with_START : nextIs (exec (.addr 0x0102030405) beforeBeat)
    (fun t => t.pins.dout == 0x05 && t.pins.start && t.owm == mBus) = true := by decide
/-- P-A1: byte 1 goes with START = 0. -/
theorem test_addr_beat_one_clears_START :
    nextIs (exec (.addr 0x0102030405) { beforeBeat with regs := { beforeBeat.regs with k := 1 } })
      (fun t => t.pins.dout == 0x04 && !t.pins.start) = true := by decide
/-- P-W1: after the falling edge of beat 3 the word is at its address and the pointer is one further. -/
theorem test_wdata_last_beat_stores_the_word : nextIs (step lastWriteBeat)
    (fun t => readWord t.fix.mem 0x0102030405 == 0x12345678 && t.fix.ptr == 0x0102030406 && t.seq == .run .xfer (.wdata .cx1)) = true := by decide
/-- P-W2: byte 3 of 0xDEADBEEF is 0xDE. -/
theorem test_wdata_beat_three_sends_high_byte :
    nextIs (exec (.wdata 0xDEADBEEF) { beforeBeat with
      seq := .run .xfer (.wdata .drv), regs := { beforeBeat.regs with k := 3 } })
      (fun t => t.pins.dout == 0xDE && !t.pins.start) = true := by decide
/-- P-R1: with the responder driving 0x12 in beat 3 the word 0x12345678 is complete, and goes to DEST. -/
theorem test_rdata_last_sample_completes_the_word :
    nextIs (exec .rdata { pageCrossing with
      regs := { pageCrossing.regs with w := 0x00345678 }, fix := { pageCrossing.fix with drive := some 0x12 } })
      (fun t => t.regs.w == 0x12345678 && destRead t.dest 0 == some 0x12345678 && t.pins.clk) = true := by decide
/-- B15: at the page boundary Read-Finish comes next, not an address phase. -/
theorem test_rdata_at_a_page_end_leads_to_rfin : nextIs (step pageCrossing)
    (fun t => t.seq == .run .close (.rfin .nRD) && t.regs.a == 0x100 && t.regs.i == 1) = true := by decide
/-- P-F1: nRD rises and the responder stops driving. -/
theorem test_rfin_raises_nRD : nextIs (step { pageCrossing with seq := .run .last (.rfin .nRD) })
    (fun t => t.pins.nRD && t.fix.drive == none && t.pins.clk) = true := by decide
/-- P-F2: with RFIN_CLK_LOW the CLK falls first, while nRD is 0, and nothing is latched. -/
theorem test_rfin_clk_low_is_no_write_beat :
    nextIs (step { pageCrossing with seq := .run .last (.rfin .clk), rfinClkLow := true })
      (fun t => !t.pins.clk && !t.pins.nRD && t.fix.sh == pageCrossing.fix.sh && t.seq == .run .last (.rfin .nRD)) = true := by decide
/-- P3: BUSY rises, A and N are loaded, the first address phase is next. -/
theorem test_poke_accept : nextIs (step { bench with port := [offerOf 0x01 2 0xABCDEF0102030405] })
    (fun t => t.busy && t.regs.a == 0x0102030405 && t.regs.n == 2 && t.seq == .run .head (.addr .nRD) && t.port.isEmpty) = true := by decide
/-- P4: a POKE of no words goes to its end and sends nothing. -/
theorem test_poke_of_no_words : nextIs (step { bench with port := [offerOf 0x01 0 0x1234] })
    (fun t => t.busy && t.seq == .finish && t.pins == bench.pins) = true := by decide
/-- B6: a PEEK of no words still sends its address. -/
theorem test_peek_of_no_words_sends_its_address : nextIs (step { bench with port := [offerOf 0x02 0 0x1234] })
    (fun t => t.seq == .run .head (.addr .nRD) && t.regs.a == 0x1234) = true := by decide
/-- T7: an unknown OPC is refused with CONTRACT and BUSY stays 0. -/
theorem test_unknown_opcode_is_contract : nextIs (step { bench with port := [offerOf 0x03 1 0] })
    (fun t => t.status == { code := 2, place := 3, index := 0, addr := 0 } && !t.busy && t.pins == bench.pins) = true := by decide
/-- T5: two zeros with WAIT_BOUND = 2 are a timeout of word 1 at 0x400, with START left at 1. -/
theorem test_timeout_report : nextIs (step (silentWait (some 2) 2))
    (fun t => t.status == { code := 1, place := 0, index := 1, addr := 0x400 } && !t.busy && t.seq == .idle && t.pins.start) = true := by decide
/-- P5: with no bound the engine stays where it is. -/
theorem test_hang : nextIs (step (silentWait none 0)) (fun t => t == silentWait none 0) = true := by decide
/-- H4: a handler's change of OWM lands at a wait, where IRQ_INHIBIT = 0. -/
theorem test_handler_changes_owm_at_a_wait : nextIs (step { silentWait none 0 with turns := [.handler (.owm mBus)] })
    (fun t => t.owm == mBus && t.seq == (silentWait none 0).seq) = true := by decide
/-- R219: inside the critical section it waits. -/
theorem test_handler_waits_in_the_critical_section :
    nextIs (step { beforeBeat with turns := [.handler (.otherPins 7)] })
      (fun t => t.otherPins == 0 && t.turns == [.handler (.otherPins 7)] && t.seq == .run .head (.addr .hi)) = true := by decide
/-- The host's two questions on the table's rows: each first step after reset runs. -/
theorem test_first_step_runs_poke :
    nextIs (step (State.reset.withFetchWord 128 0x01000000_00000001_00000001_02030405)) (fun t => t.busy && t.regs.n == 1) = true := by decide
theorem test_first_step_runs_rdata : nextIs (step (State.reset.withFetchWord 40 0))
    (fun t => t.pins.dir == .inp && t.busy && !t.pins.start && t.seq == .run .xfer (.rdata .nRD)) = true := by decide
theorem test_first_step_runs_wdata : nextIs (step (State.reset.withFetchWord 40 0b10_01111000_10_01010110_10_00110100_10_00010010))
    (fun t => t.regs.w == 0x12345678 && t.pins.nRD && t.seq == .run .xfer (.wdata .start)) = true := by decide
/-- R100: with BUSY = 0 and no command in flight no primitive runs. -/
theorem test_primitive_alone_is_refused : execRdata State.reset = .refused .notCalled := by rfl
/-- R88: with `delay(j) = 1` for all j every wait samples one 0, then 1, the thousandth too. -/
theorem test_delay_one_for_ever :
    let s : State := { bench with fix := { bench.fix with script := { listed := [], beyond := .all (some 1) }, waits := 1000 } }
    (sampleNWait s).1 = false ∧ (sampleNWait (sampleNWait s).2).1 = true ∧
      (sampleNWait (waitOver (sampleNWait (sampleNWait s).2).2)).1 = false := by decide

/-! ### The hypotheses of the statements are met -/

theorem witness_DescriptorsHoldOnlyCommands : decodeBits 128 0x02000000_00000001_00000000_00000000 = .ok (.peek 0 1) := by rfl

theorem witness_IllegalDescriptorIsRefused_opcode :
    bench.turns = [] ∧ bench.seq = .idle ∧ bench.busy = false ∧
    (offerOf 0x00 1 0).desc = mkDescriptor 0x00 1 0 ∧ descOpc (mkDescriptor 0x00 1 0) ≠ 0x01 ∧ descOpc (mkDescriptor 0x00 1 0) ≠ 0x02 := by decide

theorem witness_IllegalDescriptorIsRefused_reserved :
    descRsv (0x01FFFFFF_00000001_00000000_00000000 : Descriptor) ≠ 0 ∧
    descOpc (0x01FFFFFF_00000001_00000000_00000000 : Descriptor) = 0x01 := by decide

theorem witness_PokeIsAccepted : ∃ s : State, s.seq = .idle ∧ s.busy = false ∧ (2 : Count).toNat ≤ offeredSrcCount s ∧ (2 : Count) ≠ 0 :=
  ⟨{ bench with port := [offerOf 0x01 2 0xFE] }, by decide⟩

theorem witness_PeekIsAccepted : ∃ s : State, s.seq = .idle ∧ s.busy = false ∧ (2 : Count).toNat ≤ offeredRoom s :=
  ⟨{ bench with port := [offerOf 0x02 2 0xFE] }, by decide⟩

theorem witness_ShortBuffersAreRefused : ∃ s : State, s.seq = .idle ∧ s.busy = false ∧
    offeredSrcCount s < (3 : Count).toNat ∧ offeredRoom s < (3 : Count).toNat :=
  ⟨{ bench with port := [offerOf 0x01 3 0] }, by decide⟩

theorem witness_PokeOfNoWordsTouchesNothing :
    Offering (offerOf 0x01 0 0x1234) { bench with port := [offerOf 0x01 0 0x1234] } ∧ IsPoke (offerOf 0x01 0 0x1234) 0x1234 0 :=
  ⟨⟨rfl, rfl, rfl, rfl⟩, rfl⟩

theorem witness_OffersWaitWhileBusy :
    ∃ t, { beforeBeat with port := [offerOf 0x01 2 0] }.busy = true ∧ step { beforeBeat with port := [offerOf 0x01 2 0] } = .next t :=
  ⟨_, rfl, rfl⟩

theorem witness_OverlapIsRefused :
    beforeBeat.busy = true ∧ ({ beforeBeat with seq := .finish } : State).seq = .finish ∧
    beforeBeat.seq = .run .head (.addr .drv) := by decide

theorem witness_StepRunsTheDecodedInstruction :
    bench.turns = [] ∧ bench.seq = .idle ∧ bench.busy = false ∧
    decodeDescriptor (offerOf 0x01 2 0xFE).desc = .ok (.poke 0xFE 2) ∧
    beforeBeat.turns = [] ∧ beforeBeat.seq = .run .head (.addr .drv) ∧ decodeTableWord 8 2 = some .rfin :=
  ⟨rfl, rfl, rfl, rfl, rfl, rfl, rfl⟩

theorem witness_EngineAlwaysHasANextState : bench.turns = [] ∧ bench.seq = .idle ∧ bench.port = [] := by decide

theorem witness_AddrPerformsThePositionsAction :
    beforeBeat.seq = .run .head (.addr .drv) ∧ AddrPos.drv ≠ .wait ∧ beforeBeat.owm = mBus ∧
    ({ beforeBeat with seq := .run .head (.addr .lo) } : State).seq = .run .head (.addr .lo) := by decide

theorem witness_WdataPerformsThePositionsAction :
    lastWriteBeat.seq = .run .xfer (.wdata .lo) ∧ WdataPos.lo ≠ .wait ∧ lastWriteBeat.owm = mBus := by decide

theorem witness_WdataPerformsThePositionsAction_lastByte : LastByteOf 0x12345678 lastWriteBeat :=
  ⟨by decide, by decide, by decide, by decide, by decide, by decide, by decide⟩

theorem witness_RdataPerformsThePositionsAction :
    pageCrossing.seq = .run .xfer (.rdata .smp) ∧ 3 ≤ pageCrossing.regs.k.toNat ∧ pageCrossing.regs.op = .peek := by decide

theorem witness_RfinPerformsThePositionsAction :
    ({ pageCrossing with seq := .run .close (.rfin .dir) } : State).seq = .run .close (.rfin .dir) ∧ RfinPos.dir ≠ .wait := by decide

theorem witness_PrimitivesRunOnlyWhenCalled :
    ∃ s t : State, s.seq = .idle ∧ s.turns = [] ∧ s.port ≠ [] ∧ step s = .next t :=
  ⟨{ bench with port := [offerOf 0x02 2 0xFE] }, _, rfl, rfl, by decide, rfl⟩

theorem witness_WaitEndsOnASampleOfOne : ∃ s u v : State,
    boundReached s = false ∧ (sampleNWait s).1 = true ∧ s.seq = .run .head (.addr .wait) ∧
    boundReached u = false ∧ (sampleNWait u).1 = true ∧ u.seq = .run .xfer (.wdata .wait) ∧
    boundReached v = false ∧ (sampleNWait v).1 = true ∧ v.seq = .run .last (.rfin .wait) :=
  ⟨inCommand .poke .head (.addr .wait) 0 2 0xFE, { lastWriteBeat with seq := .run .xfer (.wdata .wait) },
    { pageCrossing with seq := .run .last (.rfin .wait), env := .oracle, oracle := { nWait := [true], data := [] } }, by decide⟩

theorem witness_WaitStaysOnASampleOfZero : ∃ s : State, s.turns = [] ∧ s.seq = .run .head (.addr .wait) ∧ isWait s.seq = true ∧
    boundReached s = false ∧ (sampleNWait s).1 = false :=
  ⟨silentWait (some 3) 1, by decide⟩

/-- T1: a wait of two zeros, without a bound and with the smallest bound that lets it pass; and a wait of no zero. -/
def slowWait (bound : Option Nat) (d : Nat) : State := { silentWait bound 0 with
  fix := { bench.fix with script := { listed := [none, some d], beyond := .free }, waits := 1 } }

theorem witness_WaitSamplesExactlyItsDelay :
    ∀ s ∈ [slowWait none 2, slowWait (some 3) 2, slowWait none 0], s.turns = [] ∧ s.seq = .run .head (.addr .wait) ∧ isWait s.seq = true ∧
      s.env = .fixture ∧ (scriptDelay s.fix.script s.fix.waits = some 2 ∨ scriptDelay s.fix.script s.fix.waits = some 0) ∧
      s.fix.polled = 0 ∧ s.regs.polls = 0 ∧ (s.waitBound = none ∨ s.waitBound = some 3) := by decide

theorem witness_DeadResponderHangsTheEngine : ∃ s : State, s.turns = [] ∧ isWait s.seq = true ∧ s.waitBound = none ∧
    s.env = .fixture ∧ scriptDelay s.fix.script s.fix.waits = none :=
  ⟨silentWait none 0, by decide⟩

/-- The same silence at the other two waits. -/
def silentAt (b : BlockPos) (p : PrimPos) (polls : Nat) : State := { silentWait (some 2) polls with seq := .run b p }

theorem witness_TimeoutAfterExactlyTheBound :
    ∀ c ∈ [(BlockPos.head, PrimPos.addr .wait), (.xfer, .wdata .wait), (.last, .rfin .wait)],
      (silentAt c.1 c.2 0).turns = [] ∧ (silentAt c.1 c.2 0).seq = .run c.1 c.2 ∧ (silentAt c.1 c.2 0).waitBound = some 2 ∧
      (silentAt c.1 c.2 0).regs.polls = 0 ∧ (silentAt c.1 c.2 0).env = .fixture ∧
      scriptDelay (silentAt c.1 c.2 0).fix.script (silentAt c.1 c.2 0).fix.waits = none := by decide

theorem witness_AckTimeoutEntry :
    ∀ c ∈ [(BlockPos.head, PrimPos.addr .wait), (.xfer, .wdata .wait), (.last, .rfin .wait)],
      (silentAt c.1 c.2 2).turns = [] ∧ (silentAt c.1 c.2 2).seq = .run c.1 c.2 ∧
      (silentAt c.1 c.2 2).waitBound = some (silentAt c.1 c.2 2).regs.polls := by decide

theorem witness_WriteOfTheSameLevelIsInvisible : beforeBeat.pins.dir = .out := by decide

theorem witness_MaskedWriteSetsDataAndStart : beforeBeat.owm = mBus := by decide

theorem witness_CriticalSectionRestoresTheMask :
    ({ beforeBeat with owmSaved := bench.owm } : State).owmSaved =
      (perform .writeOwmBus (perform .saveOwm (perform (.inhibit true) bench))).owmSaved := by decide

theorem witness_AddressIsResentOnNewPagesOnly :
    beforeBeat.regs.i < beforeBeat.regs.n ∧ beforeBeat.regs.op = .poke ∧
    (inCommand .peek .head (.addr .cx2) 0 1 0x100).regs.i < (inCommand .peek .head (.addr .cx2) 0 1 0x100).regs.n ∧
    (inCommand .peek .head (.addr .cx2) 0 1 0x100).regs.op = .peek ∧ (inCommand .peek .head (.addr .cx2) 0 1 0x100).regs.i = 0 := by decide

/-- B13, and the same for a PEEK. -/
theorem witness_RunningAddressCountsAndWraps :
    ∀ op : Op, ∃ s : State, s.regs.op = op ∧ s.regs.a = 0xFFFFFFFFFF ∧ s.regs.i < s.regs.n ∧ s.regs.i + 1 < s.regs.n
  | .poke => ⟨inCommand .poke .xfer (.wdata .wait) 0 2 0xFFFFFFFFFF, by decide⟩
  | .peek => ⟨inCommand .peek .xfer (.rdata .smp) 0 2 0xFFFFFFFFFF, by decide⟩

/-- A good state with the responder in step: the last beat of a WDATA. -/
theorem lastWriteBeat_inv : Inv lastWriteBeat where
  memory := by decide
  dest := by decide
  bound := by decide
  busy := by decide
  inhibit := by decide
  mask := by decide
  save := by decide
  polls := by decide
  drive := by decide
  place := by decide

theorem witness_StepKeepsTheInvariant : ∃ t, Inv lastWriteBeat ∧ step lastWriteBeat = .next t :=
  ⟨_, lastWriteBeat_inv, rfl⟩

theorem lastWriteBeat_synced : Synced lastWriteBeat := fun _ => by
  show wdataSynced .lo lastWriteBeat.src lastWriteBeat.regs lastWriteBeat.fix = true
  decide

theorem witness_StepKeepsThePointerMirrored : ∃ t, Inv lastWriteBeat ∧ Synced lastWriteBeat ∧ step lastWriteBeat = .next t :=
  ⟨_, lastWriteBeat_inv, lastWriteBeat_synced, rfl⟩

theorem lastWriteBeat_transferred : Transferred lastWriteBeat := fun _ _ j hj => absurd hj (by
  have e : lastWriteBeat.regs.i.toNat = 0 := by decide
  omega)

theorem witness_StepKeepsTheTransferredWords :
    ∃ t, Inv lastWriteBeat ∧ Synced lastWriteBeat ∧ Transferred lastWriteBeat ∧ step lastWriteBeat = .next t :=
  ⟨_, lastWriteBeat_inv, lastWriteBeat_synced, lastWriteBeat_transferred, rfl⟩

theorem witness_EngineStepsKeepThePlatformsMask :
    ∃ t, Inv lastWriteBeat ∧ lastWriteBeat.turns = [] ∧ step lastWriteBeat = .next t :=
  ⟨_, lastWriteBeat_inv, rfl, rfl⟩

theorem witness_ConfigurationIsConstantInFlight : ∃ t, lastWriteBeat.busy = true ∧ step lastWriteBeat = .next t := ⟨_, rfl, rfl⟩

theorem witness_ConfigurationIsConstantInFlight_move :
    ({ bench with turns := [.configure (some 1) true] } : State).turns = .configure (some 1) true :: [] ∧ bench.busy = false ∧
    (some 1 : Option Nat) ≠ some 0 ∧
    ({ lastWriteBeat with turns := [.configure none true] } : State).turns = .configure none true :: [] ∧ lastWriteBeat.busy = true := by decide

theorem witness_StatusIsWrittenOnlyAtTheEnd :
    ∃ t u, step (silentWait (some 2) 2) = .next t ∧ t.status ≠ (silentWait (some 2) 2).status ∧
      step { bench with port := [offerOf 0x03 1 0] } = .next u ∧ u.status ≠ bench.status :=
  ⟨_, _, rfl, by decide, rfl, by decide⟩

theorem witness_HandlersRunOnlyWhenEnabled :
    ({ beforeBeat with turns := [.handler (.otherPins 7)] } : State).turns = .handler (.otherPins 7) :: [] ∧
    beforeBeat.irqInhibit = true ∧ bench.irqInhibit = false ∧
    ∃ t, step { beforeBeat with turns := [.handler (.otherPins 7)] } = .next t :=
  ⟨rfl, rfl, rfl, _, rfl⟩

theorem witness_MemoryChangesOnlyUnderThePointer : ∃ t, step beforeBeat = .next t ∧
    ¬(beforeBeat.env = .fixture ∧ beforeBeat.pins.clk = true ∧ beforeBeat.fix.abytes = 0 ∧ beforeBeat.fix.wcnt = 3) :=
  ⟨_, rfl, by decide⟩

theorem witness_NoClockEdgeAtTheUnusedLevels :
    ∃ t, Inv lastWriteBeat ∧ step lastWriteBeat = .next t ∧ t.pins.clk ≠ lastWriteBeat.pins.clk :=
  ⟨_, lastWriteBeat_inv, rfl, by decide⟩

/-- The last sample before a page boundary is a good state. -/
theorem pageCrossing_inv : Inv pageCrossing where
  memory := by decide
  dest := by decide
  bound := by decide
  busy := by decide
  inhibit := by decide
  mask := by decide
  save := by decide
  polls := by decide
  drive := by decide
  place := by decide

/-- Beat 1 of an address phase with CLK at 1, in a good state. -/
def addressBeat : State := { beforeBeat with
  seq := .run .head (.addr .lo)
  regs := { beforeBeat.regs with k := 1 }
  pins := { clk := true, nRD := true, start := false, dir := .out, dout := 0 } }

theorem addressBeat_inv : Inv addressBeat where
  memory := by decide
  dest := by decide
  bound := by decide
  busy := by decide
  inhibit := by decide
  mask := by decide
  save := by decide
  polls := by decide
  drive := by decide
  place := by decide

theorem witness_BeatsCarryTheSymbolsOfTheEncoding :
    (Inv addressBeat ∧ addressBeat.seq = .run .head (.addr .lo)) ∧
    (Inv lastWriteBeat ∧ lastWriteBeat.seq = .run .xfer (.wdata .lo)) ∧
    (Inv pageCrossing ∧ pageCrossing.seq = .run .xfer (.rdata .smp)) :=
  ⟨⟨addressBeat_inv, rfl⟩, ⟨lastWriteBeat_inv, rfl⟩, pageCrossing_inv, rfl⟩

theorem witness_AddrRunsToItsEnd : ∃ s : State, s.turns = [] ∧ s.seq = .run .head (.addr .nRD) ∧ s.regs.k = 0 ∧
    boundOk s.waitBound = true ∧ (sampleNWait s).1 = true :=
  ⟨inCommand .poke .head (.addr .nRD) 0 2 0xFE, by decide⟩

theorem witness_WdataRunsToItsEnd : ∃ s : State, s.turns = [] ∧ s.seq = .run .xfer (.wdata .nRD) ∧ s.regs.k = 0 ∧
    boundOk s.waitBound = true ∧ (sampleNWait s).1 = true :=
  ⟨{ inCommand .poke .xfer (.wdata .nRD) 0 2 0xFE with waitBound := some 1 }, by decide⟩

theorem witness_RdataAssemblesTheSampledWord : ∃ s : State, s.turns = [] ∧ s.seq = .run .xfer (.rdata .dir) ∧ s.regs.k = 0 ∧
    s.regs.op = .peek ∧ s.env = .oracle ∧ s.oracle.data = 0x78 :: 0x56 :: 0x34 :: 0x12 :: [] :=
  ⟨{ inCommand .peek .xfer (.rdata .dir) 0 2 0xFE with
      env := .oracle, oracle := { nWait := [], data := [0x78, 0x56, 0x34, 0x12] } }, by decide⟩

theorem witness_RfinRunsToItsEnd : ∃ s : State, s.turns = [] ∧
    s.seq = .run .last (.rfin (if s.rfinClkLow then .clk else .nRD)) ∧ boundOk s.waitBound = true ∧ (sampleNWait s).1 = true :=
  ⟨{ pageCrossing with seq := .run .last (.rfin .clk), rfinClkLow := true }, by decide⟩

/-- The bench with one command offered is a good state. -/
theorem bench_offering_inv (opc : Byte) (n : Count) (addr : HostAddress) : Inv { bench with port := [offerOf opc n addr] } where
  memory := rfl
  dest := rfl
  bound := rfl
  busy := rfl
  inhibit := rfl
  mask := fun h => Bool.noConfusion h
  save := rfl
  polls := rfl
  drive := fun _ _ => rfl
  place := rfl

theorem witness_FetchedWordStandsInAGoodState : ∃ s : State, Inv s ∧ s.seq = .idle := ⟨_, bench_offering_inv 0x01 2 0xFF, rfl⟩

theorem witness_PokeTakesTheCountedSteps :
    Offering (offerOf 0x01 2 0xFF) { bench with port := [offerOf 0x01 2 0xFF] } ∧ IsPoke (offerOf 0x01 2 0xFF) 0xFF 2 ∧
    (2 : Count) ≠ 0 ∧ (2 : Count).toNat ≤ (offerOf 0x01 2 0xFF).srcCount ∧
    AlwaysReady { bench with port := [offerOf 0x01 2 0xFF] } ∧ boundOk bench.waitBound = true :=
  ⟨⟨rfl, rfl, rfl, rfl⟩, rfl, by decide, by decide, ⟨rfl, fun _ => rfl⟩, rfl⟩

theorem witness_PeekTakesTheCountedSteps :
    Offering (offerOf 0x02 2 0xFF) { bench with port := [offerOf 0x02 2 0xFF] } ∧ IsPeek (offerOf 0x02 2 0xFF) 0xFF 2 ∧
    (2 : Count).toNat ≤ (offerOf 0x02 2 0xFF).room ∧
    AlwaysReady { bench with port := [offerOf 0x02 2 0xFF] } ∧ boundOk bench.waitBound = true :=
  ⟨⟨rfl, rfl, rfl, rfl⟩, rfl, by decide, ⟨rfl, fun _ => rfl⟩, rfl⟩

/-- The same with no words (R195), and RFIN_CLK_LOW. -/
theorem witness_PeekTakesTheCountedSteps_no_words :
    Offering (offerOf 0x02 0 0x1234) { bench with port := [offerOf 0x02 0 0x1234], rfinClkLow := true } ∧
    IsPeek (offerOf 0x02 0 0x1234) 0x1234 0 ∧ (0 : Count).toNat ≤ (offerOf 0x02 0 0x1234).room ∧
    AlwaysReady { bench with port := [offerOf 0x02 0 0x1234], rfinClkLow := true } ∧ boundOk bench.waitBound = true :=
  ⟨⟨rfl, rfl, rfl, rfl⟩, rfl, by decide, ⟨rfl, fun _ => rfl⟩, rfl⟩

theorem witness_PokeWritesExactlyItsWords :
    Inv { bench with port := [offerOf 0x01 2 0xFFFFFFFFFF] } ∧
    Offering (offerOf 0x01 2 0xFFFFFFFFFF) { bench with port := [offerOf 0x01 2 0xFFFFFFFFFF] } ∧
    IsPoke (offerOf 0x01 2 0xFFFFFFFFFF) 0xFFFFFFFFFF 2 ∧ (2 : Count) ≠ 0 ∧
    (2 : Count).toNat ≤ (offerOf 0x01 2 0xFFFFFFFFFF).srcCount ∧ AlwaysReady { bench with port := [offerOf 0x01 2 0xFFFFFFFFFF] } :=
  ⟨bench_offering_inv _ _ _, ⟨rfl, rfl, rfl, rfl⟩, rfl, by decide, by decide, ⟨rfl, fun _ => rfl⟩⟩

theorem witness_PeekReadsExactlyItsWords :
    Inv { bench with port := [offerOf 0x02 2 0xFF] } ∧ Offering (offerOf 0x02 2 0xFF) { bench with port := [offerOf 0x02 2 0xFF] } ∧
    IsPeek (offerOf 0x02 2 0xFF) 0xFF 2 ∧ (2 : Count).toNat ≤ (offerOf 0x02 2 0xFF).room ∧
    AlwaysReady { bench with port := [offerOf 0x02 2 0xFF] } :=
  ⟨bench_offering_inv _ _ _, ⟨rfl, rfl, rfl, rfl⟩, rfl, by decide, ⟨rfl, fun _ => rfl⟩⟩

theorem witness_BoundedCommandsEnd :
    Inv { lastWriteBeat with waitBound := some 1 } ∧ ({ lastWriteBeat with waitBound := some 1 } : State).turns = [] ∧
    ({ lastWriteBeat with waitBound := some 1 } : State).waitBound = some 1 :=
  ⟨{ lastWriteBeat_inv with bound := by decide, polls := by decide }, rfl, rfl⟩

end Sys2Proof.Tests
end

section
/-! SUPPORT. The step inverted: the primitive in flight as one function of its position, what it leaves alone, and everything that
a step to a next state can be. -/

namespace Sys2Proof.Machine

/-! ### The primitive in flight, one definition for the four (R162, R166, R170, R174) -/

/-- Which wait a position is, if it is one (R139). -/
def primWait : PrimPos → Option WaitKind
  | .addr .wait => some .addr
  | .wdata .wait => some .wdata
  | .rfin .wait => some .rfin
  | _ => none

/-- The action of a position, its operand taken from the working registers. -/
def primAction (r : Regs) : PrimPos → Action
  | .addr p => addrAction r.a r.k p
  | .wdata p => wdataAction r.w r.k p
  | .rdata p => rdataAction p
  | .rfin p => rfinAction p

/-- What follows a position once its action is done. -/
def primAfter (b : BlockPos) : PrimPos → State → State
  | .addr p => addrAfter b p
  | .wdata p => wdataAfter b p
  | .rdata p => rdataAfter b p
  | .rfin p => rfinAfter b p

/-- One step of the primitive in flight at a position. -/
def primStep (b : BlockPos) (p : PrimPos) (s : State) : State :=
  match primWait p with
  | some w => waitStep w (primAfter b p) s
  | none => primAfter b p (perform (primAction s.regs p) s)

/-- `primStep` is what the model's `exec` makes of the primitive in flight. -/
theorem exec_primInstr {b : BlockPos} {p : PrimPos} {s : State} (h : s.seq = .run b p) :
    exec (primInstr s.regs p) s = .next (primStep b p s) := by
  cases p with
  | addr p => rw [primInstr, exec_addr_inFlight _ h]; cases p <;> rfl
  | wdata p => rw [primInstr, exec_wdata_inFlight _ h]; cases p <;> rfl
  | rdata p => rw [primInstr, exec_rdata_inFlight h]; rfl
  | rfin p => rw [primInstr, exec_rfin_inFlight h]; cases p <;> rfl

/-- Away from the waits a step performs the position's action and goes on. -/
theorem primStep_of_action {p : PrimPos} (b : BlockPos) (s : State) (h : primWait p = none) :
    primStep b p s = primAfter b p (perform (primAction s.regs p) s) := by
  simp only [primStep, h]

/-- At a wait a step is one step of that wait. -/
theorem primStep_of_wait {p : PrimPos} {w : WaitKind} (b : BlockPos) (s : State) (h : primWait p = some w) :
    primStep b p s = waitStep w (primAfter b p) s := by
  simp only [primStep, h]

/-- `t` differs from `s` at most in the sequencer position, the working registers, DEST and whether a read runs. -/
def ControlOnly (s t : State) : Prop := ∃ q r d v, t = { s with seq := q, regs := r, dest := d, readRun := v }

theorem controlOnly_goto (b : BlockPos) (c : PrimPos) (s : State) : ControlOnly s (goto b c s) :=
  ⟨_, s.regs, s.dest, s.readRun, rfl⟩

theorem controlOnly_goto_enterWait (b : BlockPos) (c : PrimPos) (s : State) : ControlOnly s (goto b c (enterWait s)) :=
  ⟨_, _, s.dest, s.readRun, by rw [enterWait_eq]; rfl⟩

theorem controlOnly_nextBeat (last : Nat) (b : BlockPos) (c e : PrimPos) (s : State) :
    ControlOnly s (nextBeat last b c e s) := by
  unfold nextBeat
  split
  · exact ⟨_, _, s.dest, s.readRun, rfl⟩
  · exact controlOnly_goto b e s

theorem controlOnly_afterCall (b : BlockPos) (s : State) : ControlOnly s (afterCall b s) := by
  obtain ⟨q, r, d, h⟩ := afterCall_eq b s
  exact ⟨q, r, d, s.readRun, h⟩

/-- Going on after a position changes control only: what is left is the action's. -/
theorem controlOnly_primAfter (b : BlockPos) (p : PrimPos) (s : State) : ControlOnly s (primAfter b p s) := by
  cases p with
  | addr p =>
    cases p with
    | dir => exact controlOnly_goto_enterWait b _ s
    | lo => exact controlOnly_nextBeat _ b _ _ s
    | cx2 => exact controlOnly_afterCall b s
    | _ => exact controlOnly_goto b _ s
  | wdata p =>
    cases p with
    | cx2 => exact controlOnly_goto_enterWait b _ s
    | lo => exact controlOnly_nextBeat _ b _ _ s
    | wait => exact controlOnly_afterCall b s
    | _ => exact controlOnly_goto b _ s
  | rdata p =>
    cases p with
    | dir => exact ⟨_, s.regs, s.dest, true, rfl⟩
    | smp =>
      simp only [primAfter, rdataAfter]
      split
      · exact ⟨_, _, s.dest, s.readRun, rfl⟩
      · exact controlOnly_afterCall b s
    | _ => exact controlOnly_goto b _ s
  | rfin p =>
    cases p with
    | dir => exact controlOnly_goto_enterWait b _ s
    | wait =>
      obtain ⟨q, r, d, h⟩ := afterCall_eq b { s with readRun := false }
      exact ⟨q, r, d, false, h⟩
    | _ => exact controlOnly_goto b _ s

/-! ### What a primitive leaves alone -/

/-- What no step of a primitive writes while it neither ends the command nor reports: STATUS and BUSY, the configuration, the
host's side of the ports, which responder it is, and the moves lined up. -/
structure PrimFrame (s t : State) : Prop where
  status : t.status = s.status
  busy : t.busy = s.busy
  waitBound : t.waitBound = s.waitBound
  rfinClkLow : t.rfinClkLow = s.rfinClkLow
  port : t.port = s.port
  src : t.src = s.src
  env : t.env = s.env
  turns : t.turns = s.turns

theorem PrimFrame.trans {s t u : State} (h : PrimFrame s t) (h' : PrimFrame t u) : PrimFrame s u where
  status := h'.status.trans h.status
  busy := h'.busy.trans h.busy
  waitBound := h'.waitBound.trans h.waitBound
  rfinClkLow := h'.rfinClkLow.trans h.rfinClkLow
  port := h'.port.trans h.port
  src := h'.src.trans h.src
  env := h'.env.trans h.env
  turns := h'.turns.trans h.turns

theorem primAfter_frame (b : BlockPos) (p : PrimPos) (s : State) : PrimFrame s (primAfter b p s) := by
  obtain ⟨q, r, d, v, h⟩ := controlOnly_primAfter b p s
  rw [h]
  constructor <;> rfl

theorem setPins_frame (q : Pins) (s : State) : PrimFrame s (setPins q s) := by
  constructor <;> simp

theorem sampleNWait_frame (s : State) : PrimFrame s (sampleNWait s).2 := by
  obtain ⟨o, d, n, h⟩ := sampleNWait_eq s
  rw [h]
  constructor <;> rfl

/-- Every action of R130 keeps the frame. -/
theorem perform_frame (x : Action) (s : State) : PrimFrame s (perform x s) := by
  cases x with
  | pin p v => exact setPins_frame _ s
  | dir d => exact setPins_frame _ s
  | mwrite b v => exact (show PrimFrame s _ by constructor <;> rfl).trans (setPins_frame _ _)
  | sampleData =>
    obtain ⟨o, d, h⟩ := sampleData_eq s
    simp only [perform, readBeat, h]
    constructor <;> rfl
  | sampleNWait => exact sampleNWait_frame s
  | inhibit v => constructor <;> rfl
  | saveOwm => constructor <;> rfl
  | writeOwmBus => constructor <;> rfl
  | restoreOwm => constructor <;> rfl

theorem waitOver_frame (s : State) : PrimFrame s (waitOver s) := by
  rw [waitOver_eq]
  constructor <;> rfl

theorem countPoll_frame (s : State) : PrimFrame s (countPoll s) := by
  rw [countPoll_eq]
  constructor <;> rfl

/-- A step of a primitive keeps the frame, or it is the entry of ACK_TIMEOUT (R214). -/
theorem primStep_frame_or_timeout (b : BlockPos) (p : PrimPos) (s : State) :
    PrimFrame s (primStep b p s) ∨ ∃ w, primStep b p s = raiseAckTimeout w s := by
  cases hw : primWait p with
  | none =>
    rw [primStep_of_action b s hw]
    exact .inl ((perform_frame _ s).trans (primAfter_frame b p _))
  | some w =>
    rw [primStep_of_wait b s hw]
    obtain ⟨-, h⟩ | ⟨-, -, h⟩ | ⟨-, -, h⟩ := waitStep_cases w (primAfter b p) s
    · exact .inr ⟨w, h⟩
    · rw [h]
      exact .inl (((sampleNWait_frame s).trans (waitOver_frame _)).trans (primAfter_frame b p _))
    · rw [h]
      exact .inl ((sampleNWait_frame s).trans (countPoll_frame _))

/-! ### Everything a step can be -/

/-- The engine's step from `s`, in its six forms (R28). -/
inductive EngineStep (s : State) : State → Prop where
  | rest (hseq : s.seq = .idle) : EngineStep s s
  | refuse (hseq : s.seq = .idle) (hbusy : s.busy = false) (hport : s.port ≠ []) : EngineStep s (refuseContract s)
  | acceptPoke (addr : HostAddress) (n : Count) (hseq : s.seq = .idle) (hbusy : s.busy = false) :
      EngineStep s (pokeLoop (accept .poke addr n s))
  | acceptPeek (addr : HostAddress) (n : Count) (hseq : s.seq = .idle) (hbusy : s.busy = false) :
      EngineStep s (callAddr .head (accept .peek addr n s))
  | prim (b : BlockPos) (p : PrimPos) (hseq : s.seq = .run b p) : EngineStep s (primStep b p s)
  | finish (hseq : s.seq = .finish) : EngineStep s (endCommand s)

/-- A step of the machine from `s`: the engine's, a handler's write or the platform's configuration (R10, R141; log 17). -/
inductive MachineStep (s : State) : State → Prop where
  | engine (ts : List Turn) (t : State) (h : EngineStep { s with turns := ts } t) : MachineStep s t
  | handlerOwm (m : PinSet) (ts : List Turn) (hturns : s.turns = .handler (.owm m) :: ts) :
      MachineStep s { s with owm := m, turns := ts }
  | handlerPins (v : Nat) (ts : List Turn) (hturns : s.turns = .handler (.otherPins v) :: ts) :
      MachineStep s { s with otherPins := v, turns := ts }
  | configure (bound : Option Nat) (clkLow : Bool) (ts : List Turn) (hturns : s.turns = .configure bound clkLow :: ts)
      (hbusy : s.busy = false) : MachineStep s { s with waitBound := bound, rfinClkLow := clkLow, turns := ts }

/-- At IDLE only the two commands run; each is accepted or refused with CONTRACT (R190, R191, R213). -/
theorem engineStep_of_exec_idle {i : Instr} {s t : State} (hseq : s.seq = .idle) (hbusy : s.busy = false) (hport : s.port ≠ [])
    (h : exec i s = .next t) : EngineStep s t := by
  have hready : portReady s = true := by simp [portReady, hseq, hbusy]
  cases i with
  | poke addr n =>
    simp only [exec, execPoke, hready, if_true] at h
    split at h <;> cases h
    · exact .acceptPoke addr n hseq hbusy
    · exact .refuse hseq hbusy hport
  | peek addr n =>
    simp only [exec, execPeek, hready, if_true] at h
    split at h <;> cases h
    · exact .acceptPeek addr n hseq hbusy
    · exact .refuse hseq hbusy hport
  | addr a => simp [exec, execAddr, hseq] at h
  | wdata w => simp [exec, execWdata, hseq] at h
  | rdata => simp [exec, execRdata, hseq] at h
  | rfin => simp [exec, execRfin, hseq] at h

/-- The outcome of a move. -/
def outcomeOf : Move → Host.Outcome State Fault Refusal
  | .run i s => exec i s
  | .rest s => .next s
  | .stop r => .refused r

theorem step_eq_outcomeOf (s : State) : step s = outcomeOf (nextMove s) := by
  unfold step outcomeOf
  cases nextMove s <;> rfl

/-- What the engine's move can lead to. -/
theorem engineStep_of_engineMove {s t : State} (h : outcomeOf (engineMove s) = .next t) : EngineStep s t := by
  obtain ⟨hseq, -, hm⟩ | ⟨hseq, hbusy, hm⟩ | ⟨b, p, hseq, hm⟩ | ⟨hseq, hm⟩ := engineMove_cases s
  · rw [hm] at h; cases h
    exact .rest hseq
  · obtain ⟨-, hp⟩ | ⟨o, r, i, hport, -, hp⟩ | ⟨o, r, e, hport, -, hp⟩ := portMove_cases s
    · rw [hm, hp] at h; cases h
      exact .rest hseq
    · rw [hm, hp] at h
      exact engineStep_of_exec_idle hseq hbusy (by simp [hport]) h
    · rw [hm, hp] at h; cases h
      exact .refuse hseq hbusy (by simp [hport])
  · rw [hm, outcomeOf, exec_primInstr hseq] at h; cases h
    exact .prim b p hseq
  · rw [hm] at h; cases h
    exact .finish hseq

/-- A step that answers a next state is one of the machine's steps. -/
theorem machineStep_of_step {s t : State} (h : step s = .next t) : MachineStep s t := by
  rw [step_eq_outcomeOf] at h
  obtain ⟨-, hm⟩ | ⟨ts, -, hm⟩ | ⟨w, ts, -, -, hm⟩ | ⟨w, ts, hturns, -, hm⟩ | ⟨b, c, ts, hturns, hm⟩ := nextMove_cases s <;>
    rw [hm] at h
  · exact .engine s.turns t (engineStep_of_engineMove h)
  · exact .engine ts t (engineStep_of_engineMove h)
  · exact .engine s.turns t (engineStep_of_engineMove h)
  · cases w with
    | owm m => cases h; exact .handlerOwm m ts hturns
    | otherPins v => cases h; exact .handlerPins v ts hturns
    | _ => cases h
  · unfold configureMove at h
    split at h
    · cases h
    · next hc =>
      simp only [Bool.or_eq_true, not_or, Bool.not_eq_true] at hc
      cases h
      exact .configure b c ts hturns hc.1

/-- With no move of another agent lined up the step is the engine's. -/
theorem engineStep_of_step {s t : State} (hturns : s.turns = []) (h : step s = .next t) : EngineStep s t := by
  rw [step_eq_outcomeOf, nextMove, hturns] at h
  exact engineStep_of_engineMove h

end Sys2Proof.Machine
end

section
/-! SUPPORT. What every step keeps, and the state after reset: O35, O41, O42, O13, O40. -/

namespace Sys2Proof.Machine

/-! ### Reset (R39, R241) -/

/-- Settles O35: at IDLE, with the oracle responder and no data listed, nothing is left to keep. -/
theorem resetHasTheInvariant : Obligations.ResetHasTheInvariant := by
  intro p
  have hinv : Inv (State.resetWith p) :=
    { memory := rfl, dest := rfl, bound := rfl, busy := rfl, inhibit := rfl, mask := nofun, save := rfl, polls := rfl,
      drive := nofun, place := rfl }
  have hsync : Synced (State.resetWith p) := nofun
  have htrans : Transferred (State.resetWith p) := nofun
  exact ⟨hinv, hsync, htrans⟩

/-! ### The configuration (R33, R34) -/

/-- No step of the engine writes WAIT_BOUND or RFIN_CLK_LOW. -/
theorem engineStep_keeps_configuration {s t : State} (h : EngineStep s t) :
    t.waitBound = s.waitBound ∧ t.rfinClkLow = s.rfinClkLow := by
  cases h with
  | rest => exact ⟨rfl, rfl⟩
  | refuse => exact ⟨rfl, rfl⟩
  | acceptPoke addr n =>
    obtain ⟨q, w, k, e⟩ := pokeLoop_eq (accept .poke addr n s)
    rw [e]
    exact ⟨rfl, rfl⟩
  | acceptPeek => exact ⟨rfl, rfl⟩
  | prim b p =>
    obtain hf | ⟨w, e⟩ := primStep_frame_or_timeout b p s
    · exact ⟨hf.waitBound, hf.rfinClkLow⟩
    · rw [e, raiseAckTimeout_eq]
      exact ⟨rfl, rfl⟩
  | finish => exact ⟨rfl, rfl⟩

/-- The platform's move when it is lined up (log 17). -/
theorem step_configure {s : State} {bound : Option Nat} {clkLow : Bool} {ts : List Turn}
    (h : s.turns = .configure bound clkLow :: ts) :
    step s = if s.busy || !boundOk bound then .refused .badConfiguration
      else .next { s with waitBound := bound, rfinClkLow := clkLow, turns := ts } := by
  simp only [step_eq_outcomeOf, nextMove, h, configureMove]
  split <;> rfl

/-- Settles O41: the engine never writes the two, and the platform's move is refused in flight. -/
theorem configurationIsConstantInFlight : Obligations.ConfigurationIsConstantInFlight := by
  constructor
  · intro s t hbusy h
    cases machineStep_of_step h with
    | engine ts t he =>
      have hkeep := engineStep_keeps_configuration he
      exact hkeep
    | handlerOwm => exact ⟨rfl, rfl⟩
    | handlerPins => exact ⟨rfl, rfl⟩
    | configure bound clkLow ts hturns hfree => exact absurd hbusy (by simp [hfree])
  · intro s bound clkLow ts hturns
    rw [step_configure hturns]
    constructor
    · intro hbusy hbound
      simp [hbusy, boundOk, hbound]
    · rintro (hbusy | hbound)
      · simp [hbusy]
      · simp [hbound, boundOk]

/-! ### STATUS (R31) -/

/-- Where a step of the engine writes STATUS: at a command's end, at a timeout, at a refusal. -/
theorem engineStep_status {s t : State} (h : EngineStep s t) :
    t.status = s.status ∨
    (s.seq = .finish ∧ t = endCommand s) ∨
    ((∃ b p, s.seq = .run b p) ∧ ∃ w, t = raiseAckTimeout w s) ∨
    (s.seq = .idle ∧ s.busy = false ∧ s.port ≠ [] ∧ t = refuseContract s) := by
  cases h with
  | rest => exact .inl rfl
  | refuse hseq hbusy hport => exact .inr (.inr (.inr ⟨hseq, hbusy, hport, rfl⟩))
  | acceptPoke addr n =>
    obtain ⟨q, w, k, e⟩ := pokeLoop_eq (accept .poke addr n s)
    rw [e]
    exact .inl rfl
  | acceptPeek => exact .inl rfl
  | prim b p hseq =>
    obtain hf | htimeout := primStep_frame_or_timeout b p s
    · exact .inl hf.status
    · exact .inr (.inr (.inl ⟨⟨b, p, hseq⟩, htimeout⟩))
  | finish hseq => exact .inr (.inl ⟨hseq, rfl⟩)

/-- In a good state BUSY is 1 wherever the sequencer is not at IDLE (R29). -/
theorem Inv.busy_of_ne_idle {s : State} (h : Inv s) (hseq : s.seq ≠ .idle) : s.busy = true := by
  rw [h.busy]
  simpa using hseq

/-- Settles O42: of the three writes of STATUS two end the command in flight and one refuses the offer. -/
theorem statusIsWrittenOnlyAtTheEnd : Obligations.StatusIsWrittenOnlyAtTheEnd := by
  intro s t h hne
  cases machineStep_of_step h with
  | handlerOwm => exact absurd rfl hne
  | handlerPins => exact absurd rfl hne
  | configure => exact absurd rfl hne
  | engine ts t he =>
    obtain hsame | ⟨hseq, rfl⟩ | ⟨⟨b, p, hseq⟩, w, rfl⟩ | ⟨hseq, hbusy, hport, rfl⟩ := engineStep_status he
    · exact absurd hsame hne
    · have hrun : s.seq ≠ .idle := by rw [show s.seq = .finish from hseq]; exact nofun
      exact ⟨rfl, rfl, .inl ⟨hrun, fun hi => hi.busy_of_ne_idle hrun, rfl, .inl rfl⟩, fun _ => ⟨rfl, rfl, rfl⟩⟩
    · have hrun : s.seq ≠ .idle := by rw [show s.seq = .run b p from hseq]; exact nofun
      rw [raiseAckTimeout_eq]
      exact ⟨rfl, rfl, .inl ⟨hrun, fun hi => hi.busy_of_ne_idle hrun, rfl, .inr rfl⟩,
        fun hcode => absurd hcode (show (1 : BitVec 2) ≠ 0 by decide)⟩
    · exact ⟨hseq, hbusy, .inr ⟨hseq, hbusy, hport, rfl, rfl⟩,
        fun hcode => absurd hcode (show (2 : BitVec 2) ≠ 0 by decide)⟩

/-! ### Which instruction a step runs (R28) -/

/-- A step at IDLE with a legal descriptor in front of the port runs its command. -/
theorem step_of_offer {s : State} {o : Offer} {rest : List Offer} {i : Instr} (hturns : s.turns = []) (hseq : s.seq = .idle)
    (hbusy : s.busy = false) (hport : s.port = o :: rest) (hdec : decodeDescriptor o.desc = .ok i) : step s = exec i s := by
  simp [step_eq_outcomeOf, nextMove, hturns, engineMove, hseq, hbusy, portMove, hport, hdec, outcomeOf]

/-- A step inside a primitive runs it, its operand taken from A or W. -/
theorem step_of_run {s : State} {b : BlockPos} {p : PrimPos} (hturns : s.turns = []) (hseq : s.seq = .run b p) :
    step s = exec (primInstr s.regs p) s := by
  simp only [step_eq_outcomeOf, nextMove, hturns, engineMove, hseq, outcomeOf]

/-- A descriptor of fewer bits than 128 does not exist: every other width holds a primitive or nothing (R115, R118). -/
theorem decodeBits_isPrimitive {nbits w : Nat} {i : Instr} (hn : nbits ≠ 128) (h : decodeBits nbits w = .ok i) :
    i.isCommand = false := by
  rw [decodeBits, if_neg hn] at h
  split at h
  · split at h
    · simp only [decodeA5] at h
      split at h <;> cases h
      rfl
    · cases h
  · split at h
    · split at h
      · simp only [decodeWordTransfer] at h
        split at h
        · cases h; rfl
        · split at h <;> cases h
          rfl
      · cases h
    · split at h
      · split at h
        · simp only [decodeF0] at h
          split at h <;> cases h
          rfl
        · cases h
      · cases h

/-- A word of the opcode table stands for what its bits decode to. -/
theorem decodeBits_of_decodeTableWord {nbits w : Nat} {i : Instr} (h : decodeTableWord nbits w = some i) :
    decodeBits nbits w = .ok i := by
  unfold decodeTableWord at h
  split at h <;> cases h
  assumption

/-- The word that `withFetchWord` places is run by the next step (logs 13 and 24). -/
theorem step_withFetchWord {s : State} {nbits w : Nat} {i : Instr} (h : decodeTableWord nbits w = some i) :
    step (s.withFetchWord nbits w) = exec i (s.withFetchWord nbits w) := by
  have hbits := decodeBits_of_decodeTableWord h
  unfold State.withFetchWord
  by_cases hn : nbits = 128
  · subst hn
    have hdec : decodeDescriptor (BitVec.ofNat 128 w) = .ok i := by
      rw [decodeBits, if_pos rfl] at hbits
      split at hbits
      · exact hbits
      · cases hbits
    rw [fetchNext_descriptor]
    exact step_of_offer rfl rfl rfl rfl hdec
  · cases i with
    | poke addr n => exact absurd (decodeBits_isPrimitive hn hbits) nofun
    | peek addr n => exact absurd (decodeBits_isPrimitive hn hbits) nofun
    | addr a => rw [fetchNext_addr hn hbits]; exact step_of_run (p := .addr .nRD) rfl rfl
    | wdata v => rw [fetchNext_wdata hn hbits]; exact step_of_run (p := .wdata .nRD) rfl rfl
    | rdata => rw [fetchNext_rdata hn hbits]; exact step_of_run (p := .rdata .dir) rfl rfl
    | rfin => rw [fetchNext_rfin hn hbits]; exact step_of_run (p := .rfin (rfinEntry s.rfinClkLow)) rfl rfl

/-- Settles O13: the offer, the primitive in flight, and the word placed for the next fetch. -/
theorem stepRunsTheDecodedInstruction : Obligations.StepRunsTheDecodedInstruction := by
  refine ⟨fun s o rest i => step_of_offer, fun s b p hturns hseq => ?_, fun s nbits w i => step_withFetchWord⟩
  rw [step_of_run hturns hseq]
  cases p <;> rfl

/-! ### The platform's mask (R32, R137, R138) -/

section
variable (b : BlockPos) (p : PrimPos) (s : State)

theorem primAfter_owm : (primAfter b p s).owm = s.owm := by
  obtain ⟨q, r, d, v, h⟩ := controlOnly_primAfter b p s
  rw [h]

theorem primAfter_owmSaved : (primAfter b p s).owmSaved = s.owmSaved := by
  obtain ⟨q, r, d, v, h⟩ := controlOnly_primAfter b p s
  rw [h]

end

/-- Whether the position that follows is one at which `OWM = M_BUS`. -/
def maskedAfter : PrimPos → Bool
  | .addr p => p == .ce3 || p == .drv || p == .hi || p == .lo
  | .wdata p => p == .ce3 || p == .drv || p == .hi || p == .lo
  | .rdata _ => false
  | .rfin _ => false

theorem seqMasked_pokeLoop (s : State) : seqMasked (pokeLoop s).seq = false := by
  unfold pokeLoop
  split
  · split <;> rfl
  · rfl

theorem seqMasked_peekLoop (s : State) : seqMasked (peekLoop s).seq = false := by
  unfold peekLoop
  split
  · split <;> rfl
  · rfl

/-- A primitive begins outside the critical section, and so does a command's `end:` line. -/
theorem seqMasked_afterCall (b : BlockPos) (s : State) : seqMasked (afterCall b s).seq = false := by
  unfold afterCall
  split
  · split
    · rfl
    · exact seqMasked_peekLoop s
  · rfl
  · rfl
  · split
    · exact seqMasked_pokeLoop _
    · exact seqMasked_peekLoop _
  · rfl

/-- Both ways out of a beat stay inside the critical section. -/
theorem seqMasked_nextBeat {last : Nat} {b : BlockPos} {p q : PrimPos} (s : State) (hp : primMasked p = true)
    (hq : primMasked q = true) : seqMasked (nextBeat last b p q s).seq = true := by
  unfold nextBeat
  split
  · exact hp
  · exact hq

/-- `maskedAfter` speaks of the position that block control and the primitive really go to. -/
theorem seqMasked_primAfter (b : BlockPos) (p : PrimPos) (s : State) :
    seqMasked (primAfter b p s).seq = maskedAfter p := by
  cases p with
  | addr p =>
    cases p with
    | lo => exact seqMasked_nextBeat s rfl rfl
    | cx2 => exact seqMasked_afterCall b s
    | _ => rfl
  | wdata p =>
    cases p with
    | lo => exact seqMasked_nextBeat s rfl rfl
    | wait => exact seqMasked_afterCall b s
    | _ => rfl
  | rdata p =>
    cases p with
    | smp =>
      simp only [primAfter, rdataAfter]
      split
      · rfl
      · exact seqMasked_afterCall b s
    | _ => rfl
  | rfin p =>
    cases p with
    | wait => exact seqMasked_afterCall b _
    | _ => rfl

/-- The platform's mask after a position whose action has led to `s`. -/
theorem platformMask_primAfter (b : BlockPos) (p : PrimPos) (s : State) :
    platformMask (primAfter b p s) = if maskedAfter p then s.owmSaved else s.owm := by
  rw [platformMask, seqMasked_primAfter, primAfter_owm, primAfter_owmSaved]

theorem platformMask_of_run {b : BlockPos} {p : PrimPos} {s : State} (hseq : s.seq = .run b p) :
    platformMask s = if primMasked p then s.owmSaved else s.owm := by
  rw [platformMask, hseq, seqMasked]

/-- Only the three mask writes of a critical section write OWM or OWM_SAVED (R137, R138). -/
theorem perform_keeps_masks {x : Action} (s : State) (h1 : x ≠ .saveOwm) (h2 : x ≠ .writeOwmBus) (h3 : x ≠ .restoreOwm) :
    (perform x s).owm = s.owm ∧ (perform x s).owmSaved = s.owmSaved := by
  cases x with
  | pin p v => simp [perform, writePin]
  | dir d => simp [perform, writeDir]
  | mwrite b v => simp [perform, mwrite]
  | sampleData =>
    obtain ⟨o, d, h⟩ := sampleData_eq s
    simp only [perform, readBeat, h, and_self]
  | sampleNWait =>
    obtain ⟨o, d, n, h⟩ := sampleNWait_eq s
    simp only [perform, h, and_self]
  | inhibit v => exact ⟨rfl, rfl⟩
  | saveOwm => exact absurd rfl h1
  | writeOwmBus => exact absurd rfl h2
  | restoreOwm => exact absurd rfl h3

/-- Where a position's action writes a mask: the save outside the masked positions, the bus mask at the way in, the restore at the
way out; no other action comes with a change between the two. -/
theorem mask_writes (r : Regs) (p : PrimPos) :
    (primAction r p = .saveOwm → primMasked p = false ∧ maskedAfter p = false) ∧
    (primAction r p = .writeOwmBus → (p = .addr .ce3 ∨ p = .wdata .ce3)) ∧
    (primAction r p = .restoreOwm → primMasked p = true ∧ maskedAfter p = false) ∧
    (primAction r p ≠ .writeOwmBus → primAction r p ≠ .restoreOwm → primMasked p = maskedAfter p) := by
  cases p with
  | addr p => cases p <;> simp +decide [primAction, addrAction]
  | wdata p => cases p <;> simp +decide [primAction, wdataAction]
  | rdata p => cases p <;> simp +decide [primAction, rdataAction]
  | rfin p => cases p <;> simp +decide [primAction, rfinAction]

/-- A wait is outside every critical section, and so is what follows it. -/
theorem wait_unmasked {p : PrimPos} {w : WaitKind} (h : primWait p = some w) : primMasked p = false ∧ maskedAfter p = false := by
  cases p with
  | addr p => cases p <;> simp_all +decide [primWait]
  | wdata p => cases p <;> simp_all +decide [primWait]
  | rdata p => exact ⟨rfl, rfl⟩
  | rfin p => exact ⟨rfl, rfl⟩

/-- At the write of the bus mask OWM_SAVED already holds the platform's (R137). -/
theorem Inv.saved_of_ce3 {s : State} {b : BlockPos} {p : PrimPos} (h : Inv s) (hseq : s.seq = .run b p)
    (hp : p = .addr .ce3 ∨ p = .wdata .ce3) : s.owmSaved = s.owm := by
  have hsave := h.save
  obtain rfl | rfl := hp <;> simpa [saveOk, hseq] using hsave

/-- One action of a primitive keeps the platform's mask, wherever it stands. -/
theorem platformMask_primStep_of_action {s : State} {b : BlockPos} {p : PrimPos} (hi : Inv s) (hseq : s.seq = .run b p)
    (hw : primWait p = none) : platformMask (primStep b p s) = platformMask s := by
  rw [primStep_of_action b s hw, platformMask_primAfter, platformMask_of_run hseq]
  obtain ⟨hsave, hbus, hrestore, hother⟩ := mask_writes s.regs p
  by_cases h1 : primAction s.regs p = .saveOwm
  · obtain ⟨hm, ha⟩ := hsave h1
    rw [hm, ha, h1]
    rfl
  by_cases h2 : primAction s.regs p = .writeOwmBus
  · have hce3 := hbus h2
    have hsaved := hi.saved_of_ce3 hseq hce3
    rw [h2]
    obtain rfl | rfl := hce3 <;> exact hsaved
  by_cases h3 : primAction s.regs p = .restoreOwm
  · obtain ⟨hm, ha⟩ := hrestore h3
    rw [hm, ha, h3]
    rfl
  · obtain ⟨howm, hsaved⟩ := perform_keeps_masks s h1 h2 h3
    rw [howm, hsaved, hother h2 h3]

/-- One step of a wait keeps the platform's mask: no case of it writes OWM, and none is in the critical section. -/
theorem platformMask_primStep_of_wait {s : State} {b : BlockPos} {p : PrimPos} {w : WaitKind} (hseq : s.seq = .run b p)
    (hw : primWait p = some w) : platformMask (primStep b p s) = platformMask s := by
  obtain ⟨hm, ha⟩ := wait_unmasked hw
  obtain ⟨o, d, n, hsample⟩ := sampleNWait_eq s
  rw [primStep_of_wait b s hw, platformMask_of_run hseq, hm]
  obtain ⟨-, h⟩ | ⟨-, -, h⟩ | ⟨-, -, h⟩ := waitStep_cases w (primAfter b p) s
  · rw [h, raiseAckTimeout_eq]
    rfl
  · rw [h, platformMask_primAfter, ha, hsample, waitOver_eq]
  · have hstay : (countPoll (sampleNWait s).2).seq = .run b p := by rw [hsample, countPoll_eq]; exact hseq
    rw [h, platformMask_of_run hstay, hm, hsample, countPoll_eq]

/-- An accept keeps the mask: it comes from IDLE and leads to a call or to the `end:` line. -/
theorem platformMask_pokeLoop_accept (addr : HostAddress) (n : Count) {s : State} (hseq : s.seq = .idle) :
    platformMask (pokeLoop (accept .poke addr n s)) = platformMask s := by
  have hm := seqMasked_pokeLoop (accept .poke addr n s)
  obtain ⟨q, w, k, e⟩ := pokeLoop_eq (accept .poke addr n s)
  rw [platformMask, hm, platformMask, hseq, e]
  rfl

/-- Settles O40: critical sections are the only places where OWM and OWM_SAVED are written, and there the platform's own mask passes
from one to the other and back. -/
theorem engineStepsKeepThePlatformsMask : Obligations.EngineStepsKeepThePlatformsMask := by
  intro s t hi hturns h
  cases engineStep_of_step hturns h with
  | rest => rfl
  | refuse hseq => rfl
  | acceptPoke addr n hseq => exact platformMask_pokeLoop_accept addr n hseq
  | acceptPeek addr n hseq => rw [platformMask, platformMask, hseq]; rfl
  | prim b p hseq =>
    cases hw : primWait p with
    | none => exact platformMask_primStep_of_action hi hseq hw
    | some w => exact platformMask_primStep_of_wait hseq hw
  | finish hseq => rw [platformMask, platformMask, hseq]; rfl

end Sys2Proof.Machine
end

section
/-! SUPPORT. The mirror of R37 (a): bytes of a word, the responder's reaction to each kind of edge, and the step lemma of O38. -/

namespace Sys2Proof.Machine

/-! ### Bytes of a word under way (R161) -/

section
variable {w : Nat}

theorem getLsbD_muxByte (v : BitVec w) (k i : Nat) :
    (muxByte v k).getLsbD i = (decide (i < 8) && v.getLsbD (8 * k + i)) := by
  simp [muxByte, BitVec.getLsbD_setWidth, BitVec.getLsbD_ushiftRight]

/-- Writing byte `k` writes bits `8k` to `8k + 7` and no other. -/
theorem getLsbD_putByte (v : BitVec w) {k : Nat} (b : Byte) (hk : 8 * k + 8 ≤ w) (i : Nat) :
    (putByte v k b).getLsbD i = if 8 * k ≤ i ∧ i < 8 * k + 8 then b.getLsbD (i - 8 * k) else v.getLsbD i := by
  have hff : (0xFF : BitVec 8) = BitVec.allOnes 8 := by decide
  simp only [putByte, hff, BitVec.getLsbD_or, BitVec.getLsbD_and, BitVec.getLsbD_not, BitVec.getLsbD_shiftLeft,
    BitVec.getLsbD_setWidth, BitVec.getLsbD_allOnes]
  by_cases hlo : 8 * k ≤ i
  · by_cases hhi : i < 8 * k + 8
    · simp [hlo, hhi, show i < w by omega, show ¬ i < 8 * k by omega, show i - 8 * k < 8 by omega, show i - 8 * k < w by omega]
    · have hb : b.getLsbD (i - 8 * k) = false := BitVec.getLsbD_of_ge b _ (by omega)
      by_cases hw : i < w
      · simp [hhi, hw, hb, show ¬ i - 8 * k < 8 by omega]
      · simp [hhi, hw, hb, BitVec.getLsbD_of_ge v i (by omega)]
  · by_cases hw : i < w
    · simp [hlo, hw, show i < 8 * k by omega]
    · simp [hlo, hw, BitVec.getLsbD_of_ge v i (by omega)]

theorem muxByte_putByte_self (v : BitVec w) {k : Nat} (b : Byte) (hk : 8 * k + 8 ≤ w) : muxByte (putByte v k b) k = b := by
  apply BitVec.eq_of_getLsbD_eq
  intro i hi
  rw [getLsbD_muxByte, getLsbD_putByte v b hk, if_pos (by omega)]
  simp [hi]

theorem muxByte_putByte_other (v : BitVec w) {k j : Nat} (b : Byte) (hk : 8 * k + 8 ≤ w) (hj : j ≠ k) :
    muxByte (putByte v k b) j = muxByte v j := by
  apply BitVec.eq_of_getLsbD_eq
  intro i hi
  rw [getLsbD_muxByte, getLsbD_muxByte, getLsbD_putByte v b hk, if_neg (by omega)]

theorem lowBytesEq_iff {k : Nat} {u v : BitVec w} : lowBytesEq k u v = true ↔ ∀ j < k, muxByte u j = muxByte v j := by
  simp [lowBytesEq]

/-- One byte more agrees once it has been put in its place. -/
theorem lowBytesEq_putByte {k : Nat} {u v : BitVec w} (hk : 8 * k + 8 ≤ w) (h : lowBytesEq k u v = true) :
    lowBytesEq (k + 1) (putByte u k (muxByte v k)) v = true := by
  rw [lowBytesEq_iff] at h ⊢
  intro j hj
  by_cases he : j = k
  · rw [he, muxByte_putByte_self u _ hk]
  · rw [muxByte_putByte_other u _ hk he]
    exact h j (by omega)

/-- Words that agree in all their bytes are equal. -/
theorem eq_of_lowBytesEq {k : Nat} {u v : BitVec w} (hw : w ≤ 8 * k) (h : lowBytesEq k u v = true) : u = v := by
  apply BitVec.eq_of_getLsbD_eq
  intro i hi
  have hbyte := lowBytesEq_iff.mp h (i / 8) (by omega)
  have hbit := congrArg (fun b => b.getLsbD (i % 8)) hbyte
  simpa only [getLsbD_muxByte, decide_true, Bool.true_and, show i % 8 < 8 by omega, show 8 * (i / 8) + i % 8 = i by omega] using hbit

end

theorem toNat_nextAddress (a : Address) : (nextAddress a).toNat = (a.toNat + 1) % 2 ^ 40 := by
  simp [nextAddress]

theorem toNat_advancePtr (p : Address) : (advancePtr p).toNat = 256 * (p.toNat / 256) + (p.toNat + 1) % 256 := by
  have hp := p.isLt
  have hlow : (p.setWidth 8 + (1 : BitVec 8)).toNat = (p.toNat + 1) % 256 := by simp
  have hhigh : (p.extractLsb' 8 32).toNat = p.toNat / 256 := by
    simp only [BitVec.extractLsb'_toNat, Nat.shiftRight_eq_div_pow]
    omega
  rw [advancePtr, BitVec.toNat_append, hlow, hhigh, ← Nat.shiftLeft_add_eq_or_of_lt (by omega), Nat.shiftLeft_eq]
  omega

theorem pageStart_iff (a : Address) : pageStart a = true ↔ a.toNat % 256 = 0 := by
  rw [pageStart, beq_iff_eq, ← BitVec.toNat_inj, BitVec.toNat_setWidth]
  rfl

/-- Inside a page the responder's pointer moves as A does (R86, R87, R192). -/
theorem advancePtr_eq_nextAddress {a : Address} (h : pageStart (nextAddress a) = false) : advancePtr a = nextAddress a := by
  have hpage : (nextAddress a).toNat % 256 ≠ 0 := by rw [Ne, ← pageStart_iff, h]; exact nofun
  have ha := a.isLt
  rw [toNat_nextAddress] at hpage
  apply BitVec.eq_of_toNat_eq
  rw [toNat_nextAddress, toNat_advancePtr]
  omega

/-! ### The responder's reaction to each kind of edge (R85 to R87) -/

section
variable {p : Pins} {s : State}

theorem turnBus_same (v : Bool) (f : Fixture) : turnBus v v f = f := by
  cases v <;> rfl

/-- A rising edge of CLK at nRD = 1 and a falling edge at nRD = 0 draw no reaction (R86, R87). -/
theorem setPins_of_quiet_edge (hn : p.nRD = s.pins.nRD) (hc : p.clk = p.nRD) : setPins p s = { s with pins := p } := by
  unfold setPins watch
  split
  · rfl
  · simp only [← hn, hc, turnBus_same]
    cases p.nRD <;> simp

/-- A change of nRD alone turns the bus (R87). -/
theorem setPins_of_same_clk (he : s.env = .fixture) (hc : p.clk = s.pins.clk) :
    setPins p s = { s with pins := p, fix := turnBus s.pins.nRD p.nRD s.fix } := by
  simp only [setPins, watch, he, hc]
  cases s.pins.clk <;> rfl

/-- A falling edge of CLK at nRD = 1: the silent responder latches the byte that the engine drives (R86). -/
theorem setPins_of_latching_edge (he : s.env = .fixture) (hn : s.pins.nRD = true) (hc : s.pins.clk = true)
    (hpn : p.nRD = true) (hpc : p.clk = false) (hdir : p.dir = .out) (hdrive : s.fix.drive = none) :
    setPins p s = { s with pins := p, fix := latchBeat p.start p.dout s.fix } := by
  simp [setPins, watch, he, hn, hc, hpn, hpc, turnBus_same, latchWires, dataWires, hdir, hdrive]

/-- The engine's own falling edge changes nothing else (R86, R131). -/
theorem perform_clk_of_latching_edge (he : s.env = .fixture) (hn : s.pins.nRD = true) (hc : s.pins.clk = true)
    (hdir : s.pins.dir = .out) (hdrive : s.fix.drive = none) :
    perform (.pin .clk false) s =
      { s with pins := { s.pins with clk := false }, fix := latchBeat s.pins.start s.pins.dout s.fix } :=
  setPins_of_latching_edge (p := { s.pins with clk := false }) he hn hc hn rfl hdir hdrive

/-- A rising edge of CLK at nRD = 0: the responder presents its next byte (R87). -/
theorem setPins_of_presenting_edge (he : s.env = .fixture) (hn : s.pins.nRD = false) (hc : s.pins.clk = false)
    (hpn : p.nRD = false) (hpc : p.clk = true) : setPins p s = { s with pins := p, fix := presentByte s.fix } := by
  simp [setPins, watch, he, hn, hc, hpn, hpc, turnBus_same]

/-- Inside the critical section the masked write of a byte and START draws no reaction. -/
theorem mwrite_of_mBus (b : Byte) (v : Bool) (h : s.owm = mBus) :
    mwrite b v s = { s with pins := { s.pins with dout := b, start := v } } := by
  unfold mwrite
  rw [h, maskedPins_mBus, maskedOthers_mBus]
  exact setPins_of_same_edges rfl rfl

/-- A sample of DATA with the engine's lines released is the byte that the responder drives (R136). -/
theorem sampleData_of_drive {d : Byte} (he : s.env = .fixture) (hdir : s.pins.dir = .inp) (hdrive : s.fix.drive = some d) :
    sampleData s = (d, s) := by
  simp [sampleData, he, dataWires, hdir, hdrive]

/-- The sample of a read beat puts that byte into W at K (R170). -/
theorem perform_sampleData_of_drive {d : Byte} (he : s.env = .fixture) (hdir : s.pins.dir = .inp)
    (hdrive : s.fix.drive = some d) :
    perform .sampleData s = { s with regs := { s.regs with w := putByte s.regs.w s.regs.k.toNat d } } := by
  simp only [perform, readBeat, sampleData_of_drive he hdir hdrive]

end

section
variable {d : Byte} {f : Fixture}

/-- A beat inside an address phase (R86). -/
theorem latchBeat_of_address (h : f.abytes ≠ 0) :
    latchBeat false d f =
      { f with ptr := putByte f.ptr f.abytes.val d, abytes := if f.abytes = 4 then 0 else f.abytes + 1 } := by
  simp [latchBeat, h]

/-- A data beat before the fourth of a word (R86). -/
theorem latchBeat_of_data (h : f.abytes = 0) (hw : f.wcnt ≠ 3) :
    latchBeat false d f = { f with sh := putByte f.sh f.wcnt.val d, wcnt := f.wcnt + 1 } := by
  simp [latchBeat, h, hw]

/-- The fourth data beat stores the word under the pointer (R86). -/
theorem latchBeat_of_lastData (h : f.abytes = 0) (hw : f.wcnt = 3) :
    latchBeat false d f = { f with
      sh := putByte f.sh 3 d
      mem := writeWord f.mem f.ptr (putByte f.sh 3 d)
      ptr := advancePtr f.ptr
      wcnt := 0 } := by
  simp [latchBeat, h, hw]

/-- The byte presented is byte `rcnt` of the word under the pointer (R87). -/
theorem presentByte_drive (f : Fixture) : (presentByte f).drive = some (muxByte (readWord f.mem f.ptr) f.rcnt.val) := by
  unfold presentByte
  simp only []
  split <;> rfl

/-- The pointer moves on with the fourth byte presented (R87). -/
theorem presentByte_ptr (f : Fixture) : (presentByte f).ptr = if f.rcnt = 3 then advancePtr f.ptr else f.ptr := by
  unfold presentByte
  simp only []
  split <;> rfl

theorem presentByte_rcnt (f : Fixture) : (presentByte f).rcnt = if f.rcnt = 3 then 0 else f.rcnt + 1 := by
  unfold presentByte
  simp only []
  split <;> rfl

/-- After nRD has gone to 0, or was 0 with no byte presented yet, a word begins at its first byte (R87). -/
theorem turnBus_down_rcnt {v : Bool} (h : v = true ∨ f.rcnt = 0) : (turnBus v false f).rcnt = 0 := by
  obtain rfl | h := h
  · rfl
  · cases v
    · exact h
    · rfl

end

/-! ### What `Synced` asks at each kind of position -/

section
variable {r : Regs} {f : Fixture}

theorem addrSynced_beat {p : AddrPos} (hp : p = .drv ∨ p = .hi ∨ p = .lo) :
    addrSynced p r f = true ↔
      r.k = 0 ∨ (f.abytes.val = r.k.toNat ∧ f.wcnt = 0 ∧ lowBytesEq r.k.toNat f.ptr r.a = true) := by
  obtain rfl | rfl | rfl := hp <;> simp [addrSynced, and_assoc]

theorem addrSynced_done {p : AddrPos} (hp : p = .cx1 ∨ p = .cx2) :
    addrSynced p r f = true ↔ f.abytes = 0 ∧ f.wcnt = 0 ∧ f.ptr = r.a := by
  obtain rfl | rfl := hp <;> simp +decide [addrSynced, and_assoc]

/-- Before the beats of WDATA the responder expects the first byte of a word at A. -/
theorem wdataSynced_entry {p : WdataPos} {src : List Word}
    (hp : p = .nRD ∨ p = .start ∨ p = .dir ∨ p = .ce1 ∨ p = .ce2 ∨ p = .ce3) :
    wdataSynced p src r f = true ↔ f.abytes = 0 ∧ r.w = srcAt src r.i.toNat ∧ f.wcnt = 0 ∧ f.ptr = r.a := by
  obtain rfl | rfl | rfl | rfl | rfl | rfl := hp <;> simp +decide [wdataSynced, and_assoc]

theorem wdataSynced_beat {p : WdataPos} {src : List Word} (hp : p = .drv ∨ p = .hi ∨ p = .lo) :
    wdataSynced p src r f = true ↔ f.abytes = 0 ∧ r.w = srcAt src r.i.toNat ∧ f.wcnt.val = r.k.toNat ∧ f.ptr = r.a ∧
      lowBytesEq r.k.toNat f.sh r.w = true := by
  obtain rfl | rfl | rfl := hp <;> simp +decide [wdataSynced, and_assoc]

theorem wdataSynced_done {p : WdataPos} {src : List Word} (hp : p = .cx1 ∨ p = .cx2 ∨ p = .wait) :
    wdataSynced p src r f = true ↔ f.abytes = 0 ∧ r.w = srcAt src r.i.toNat ∧ f.wcnt = 0 ∧ f.ptr = advancePtr r.a ∧
      readWord f.mem r.a = r.w := by
  obtain rfl | rfl | rfl := hp <;> simp +decide [wdataSynced, and_assoc]

theorem rdataSynced_entry {p : RdataPos} {q : Pins} (hp : p = .dir ∨ p = .nRD) :
    rdataSynced p q r f = true ↔ f.ptr = r.a ∧ (q.nRD = true ∨ f.rcnt = 0) := by
  obtain rfl | rfl := hp <;> simp [rdataSynced]

theorem rdataSynced_beat {p : RdataPos} {q : Pins} (hp : p = .lo ∨ p = .hi) :
    rdataSynced p q r f = true ↔
      f.ptr = r.a ∧ f.rcnt.val = r.k.toNat ∧ lowBytesEq r.k.toNat r.w (readWord f.mem r.a) = true := by
  obtain rfl | rfl := hp <;> simp [rdataSynced, and_assoc]

theorem rdataSynced_smp {q : Pins} :
    rdataSynced .smp q r f = true ↔ f.drive = some (muxByte (readWord f.mem r.a) r.k.toNat) ∧
      lowBytesEq r.k.toNat r.w (readWord f.mem r.a) = true ∧
      (if r.k.toNat = 3 then f.ptr = advancePtr r.a ∧ f.rcnt = 0 else f.ptr = r.a ∧ f.rcnt.val = r.k.toNat + 1) := by
  by_cases hk : r.k.toNat = 3 <;> simp [rdataSynced, hk, and_assoc]

end

section
variable {s : State} {b : BlockPos}

theorem synced_of_addr {p : AddrPos} (hq : s.seq = .run b (.addr p)) :
    Synced s ↔ (s.env = .fixture → addrSynced p s.regs s.fix = true) := by
  simp only [Synced, hq]

theorem synced_of_wdata {p : WdataPos} (hq : s.seq = .run b (.wdata p)) :
    Synced s ↔ (s.env = .fixture → wdataSynced p s.src s.regs s.fix = true) := by
  simp only [Synced, hq]

theorem synced_of_rdata {p : RdataPos} (hq : s.seq = .run b (.rdata p)) :
    Synced s ↔ (s.env = .fixture → rdataSynced p s.pins s.regs s.fix = true) := by
  simp only [Synced, hq]

theorem synced_of_rfin {p : RfinPos} (hq : s.seq = .run b (.rfin p)) : Synced s := by
  simp only [Synced, hq, implies_true]

theorem synced_of_idle (hq : s.seq = .idle) : Synced s := by
  simp only [Synced, hq, implies_true]

theorem synced_of_finish (hq : s.seq = .finish) : Synced s := by
  simp only [Synced, hq, implies_true]

/-- With the oracle at the far end there is nothing to mirror. -/
theorem synced_of_oracle (he : s.env ≠ .fixture) : Synced s := fun h => absurd h he

/-- What a wait writes, Synced does not read: draws, the script's place, the count of polls. -/
theorem Synced.bookkeeping (hs : Synced s) (o : Oracle) (d m n polls : Nat) :
    Synced { s with oracle := o, draws := d, regs := { s.regs with polls := polls },
                    fix := { s.fix with waits := m, polled := n } } :=
  fun he => hs he

end

/-! ### One beat on both sides -/

theorem toNat_beat_succ {k : BitVec 3} (h : k.toNat < 7) : (k + 1).toNat = k.toNat + 1 := by
  bv_omega

theorem val_succ_of_ne_three {n : Fin 4} (h : n ≠ 3) : (n + 1).val = n.val + 1 := by
  revert n
  decide

section
variable {r : Regs} {f : Fixture}

/-- An address beat before the last: the responder takes the byte that A has in its place (R80, R86). -/
theorem addrSynced_latch_next (hk : r.k.toNat < 4) (h : addrSynced .lo r f = true) :
    addrSynced .drv { r with k := r.k + 1 } (latchBeat (r.k == 0) (muxByte r.a r.k.toNat) f) = true := by
  rw [addrSynced_beat (by simp)] at h ⊢
  have hk1 : (r.k + 1).toNat = r.k.toNat + 1 := toNat_beat_succ (by omega)
  refine .inr ?_
  rw [hk1]
  by_cases hk0 : r.k = 0
  · rw [hk0]
    exact ⟨rfl, rfl, lowBytesEq_putByte (by decide) rfl⟩
  · obtain h0 | ⟨hab, hwc, hptr⟩ := h
    · exact absurd h0 hk0
    have hkpos : r.k.toNat ≠ 0 := fun e => hk0 (BitVec.eq_of_toNat_eq e)
    have hne : f.abytes ≠ 0 := fun e => hkpos (by rw [← hab, e]; rfl)
    have hne4 : f.abytes ≠ 4 := fun e => by rw [e] at hab; exact absurd hab (by simp; omega)
    rw [beq_false_of_ne hk0, latchBeat_of_address hne, if_neg hne4, hab]
    exact ⟨by rw [Fin.val_add_one_of_lt' (by omega), hab], hwc, lowBytesEq_putByte (by omega) hptr⟩

/-- The last address beat: the pointer is A (R80). -/
theorem addrSynced_latch_last (hk : r.k.toNat = 4) (h : addrSynced .lo r f = true) :
    addrSynced .cx1 r (latchBeat (r.k == 0) (muxByte r.a r.k.toNat) f) = true := by
  have hk0 : r.k ≠ 0 := fun e => by rw [e] at hk; exact absurd hk (by decide)
  rw [addrSynced_beat (by simp)] at h
  obtain h0 | ⟨hab, hwc, hptr⟩ := h
  · exact absurd h0 hk0
  have hab4 : f.abytes = 4 := Fin.ext (by rw [hab, hk]; rfl)
  rw [hk] at hptr
  rw [addrSynced_done (by simp), beq_false_of_ne hk0, latchBeat_of_address (by simp [hab4]), if_pos hab4, hab4, hk]
  exact ⟨rfl, hwc, eq_of_lowBytesEq (k := 5) (by decide) (lowBytesEq_putByte (by decide) hptr)⟩

/-- A data beat before the last: one more byte of W is in the responder's shift register (R81, R86). -/
theorem wdataSynced_latch_next {src : List Word} (hk : r.k.toNat < 3) (h : wdataSynced .lo src r f = true) :
    wdataSynced .drv src { r with k := r.k + 1 } (latchBeat false (muxByte r.w r.k.toNat) f) = true := by
  rw [wdataSynced_beat (by simp)] at h ⊢
  obtain ⟨hab, hw, hwc, hptr, hsh⟩ := h
  have hk1 : (r.k + 1).toNat = r.k.toNat + 1 := toNat_beat_succ (by omega)
  have hne : f.wcnt ≠ 3 := fun e => by rw [e] at hwc; exact absurd hwc (by simp; omega)
  rw [latchBeat_of_data hab hne, hwc, hk1]
  exact ⟨hab, hw, by rw [val_succ_of_ne_three hne, hwc], hptr, lowBytesEq_putByte (by omega) hsh⟩

/-- The last data beat: W is in memory at A, and the pointer has moved on (R81, R86). -/
theorem wdataSynced_latch_last {src : List Word} (hk : r.k.toNat = 3) (hwf : Memory.wf f.mem = true)
    (h : wdataSynced .lo src r f = true) :
    wdataSynced .cx1 src r (latchBeat false (muxByte r.w r.k.toNat) f) = true := by
  rw [wdataSynced_beat (by simp)] at h
  obtain ⟨hab, hw, hwc, hptr, hsh⟩ := h
  have hwc3 : f.wcnt = 3 := Fin.ext (by rw [hwc, hk]; rfl)
  rw [hk] at hsh
  have hword : putByte f.sh 3 (muxByte r.w 3) = r.w :=
    eq_of_lowBytesEq (k := 4) (by decide) (lowBytesEq_putByte (by decide) hsh)
  rw [wdataSynced_done (by simp), latchBeat_of_lastData hab hwc3, hk, hword, hptr]
  exact ⟨hab, hw, rfl, rfl, readWord_writeWord_self r.a r.w hwf⟩

/-- A read beat: the byte presented is the one that K counts (R82, R87). -/
theorem rdataSynced_present {q q' : Pins} (h : rdataSynced .hi q r f = true) :
    rdataSynced .smp q' r (presentByte f) = true := by
  rw [rdataSynced_beat (by simp)] at h
  obtain ⟨hptr, hrc, hbytes⟩ := h
  rw [rdataSynced_smp, presentByte_mem, presentByte_drive, presentByte_ptr, presentByte_rcnt, hptr, hrc]
  refine ⟨rfl, hbytes, ?_⟩
  by_cases h3 : f.rcnt = 3
  · have hk3 : r.k.toNat = 3 := by rw [← hrc, h3]; rfl
    rw [if_pos hk3, if_pos h3, if_pos h3]
    exact ⟨rfl, rfl⟩
  · have hk3 : r.k.toNat ≠ 3 := fun e => h3 (Fin.ext (by rw [hrc, e]; rfl))
    rw [if_neg hk3, if_neg h3, if_neg h3, val_succ_of_ne_three h3, hrc]
    exact ⟨rfl, rfl⟩

/-- A sample before the last puts one more byte of the word into W (R82). -/
theorem rdataSynced_sample_next {q q' : Pins} (hk : r.k.toNat < 3) (h : rdataSynced .smp q r f = true) :
    rdataSynced .lo q'
      { r with w := putByte r.w r.k.toNat (muxByte (readWord f.mem r.a) r.k.toNat), k := r.k + 1 } f = true := by
  rw [rdataSynced_smp, if_neg (by omega)] at h
  obtain ⟨-, hbytes, hptr, hrc⟩ := h
  have hk1 : (r.k + 1).toNat = r.k.toNat + 1 := toNat_beat_succ (by omega)
  rw [rdataSynced_beat (by simp), hk1]
  exact ⟨hptr, hrc, lowBytesEq_putByte (by omega) hbytes⟩

end

/-! ### What block control calls next (R190, R191, R193) -/

section
variable {s : State}

theorem synced_callAddr (b : BlockPos) : Synced (callAddr b s) :=
  (synced_of_addr (callAddr_seq b s)).mpr fun _ => rfl

/-- A WDATA of the next source word may be called with the pointer at A and nothing under way. -/
theorem synced_callWdata (b : BlockPos) (hab : s.fix.abytes = 0) (hwc : s.fix.wcnt = 0) (hptr : s.fix.ptr = s.regs.a) :
    Synced (callWdata b (srcAt s.src s.regs.i.toNat) s) :=
  (synced_of_wdata (callWdata_seq b _ s)).mpr fun _ => (wdataSynced_entry (by simp)).mpr ⟨hab, rfl, hwc, hptr⟩

/-- An RDATA may be called with the pointer at A and, in a run of reads, no byte presented. -/
theorem synced_callRdata (b : BlockPos) (hptr : s.fix.ptr = s.regs.a) (hrc : s.pins.nRD = true ∨ s.fix.rcnt = 0) :
    Synced (callRdata b s) :=
  (synced_of_rdata (callRdata_seq b s)).mpr fun _ => (rdataSynced_entry (by simp)).mpr ⟨hptr, hrc⟩

/-- The loop of POKE: only inside a page does the pointer have to be at A. -/
theorem synced_pokeLoop (hab : s.fix.abytes = 0) (hwc : s.fix.wcnt = 0)
    (hptr : pageStart s.regs.a = false → s.fix.ptr = s.regs.a) : Synced (pokeLoop s) := by
  unfold pokeLoop
  split
  · split
    · exact synced_callAddr _
    · next h =>
      simp only [Bool.or_eq_true, not_or, Bool.not_eq_true] at h
      exact synced_callWdata _ hab hwc (hptr h.2)
  · exact synced_of_finish rfl

/-- The loop of PEEK: only before the first word and inside a page does the pointer have to be at A. -/
theorem synced_peekLoop (hptr : s.regs.i = 0 ∨ pageStart s.regs.a = false → s.fix.ptr = s.regs.a)
    (hrc : s.pins.nRD = true ∨ s.fix.rcnt = 0) : Synced (peekLoop s) := by
  unfold peekLoop
  split
  · split
    · exact synced_of_rfin rfl
    · next h =>
      have hpage : s.regs.i ≠ 0 → pageStart s.regs.a = false := by simpa using h
      exact synced_callRdata _ (hptr (or_iff_not_imp_left.mpr hpage)) hrc
  · exact synced_of_rfin rfl

/-- After an address phase the pointer is at A, whichever call made it (R80). -/
theorem synced_afterCall_addr {b : BlockPos} {p : AddrPos} (hb : blockOk b (.addr p) s.regs = true) (hn : s.pins.nRD = true)
    (hab : s.fix.abytes = 0) (hwc : s.fix.wcnt = 0) (hptr : s.fix.ptr = s.regs.a) : Synced (afterCall b s) := by
  cases b with
  | head =>
    cases hop : s.regs.op with
    | poke => simp only [afterCall, hop]; exact synced_callWdata _ hab hwc hptr
    | peek => simp only [afterCall, hop]; exact synced_peekLoop (fun _ => hptr) (.inl hn)
  | resend => exact synced_callRdata _ hptr (.inl hn)
  | close => simp [blockOk] at hb
  | xfer => simp [blockOk] at hb
  | last => simp [blockOk] at hb

/-- After a word written the pointer has moved on as A does, inside a page (R81, R192). -/
theorem synced_afterCall_wdata {b : BlockPos} {p : WdataPos} (hb : blockOk b (.wdata p) s.regs = true)
    (hab : s.fix.abytes = 0) (hwc : s.fix.wcnt = 0) (hptr : s.fix.ptr = advancePtr s.regs.a) : Synced (afterCall b s) := by
  cases b with
  | xfer =>
    cases hop : s.regs.op with
    | poke =>
      simp only [afterCall, hop]
      exact synced_pokeLoop hab hwc fun hpage => hptr.trans (advancePtr_eq_nextAddress hpage)
    | peek => simp [blockOk, hop] at hb
  | head => simp [blockOk] at hb
  | resend => simp [blockOk] at hb
  | close => simp [blockOk] at hb
  | last => simp [blockOk] at hb

/-- After a word read the pointer has moved on as A does, inside a page, and the next word begins at its first byte (R82). -/
theorem synced_afterCall_rdata {b : BlockPos} {p : RdataPos} (hb : blockOk b (.rdata p) s.regs = true)
    (hptr : s.fix.ptr = advancePtr s.regs.a) (hrc : s.fix.rcnt = 0) : Synced (afterCall b s) := by
  cases b with
  | xfer =>
    cases hop : s.regs.op with
    | poke => simp [blockOk, hop] at hb
    | peek =>
      have hlt : s.regs.i < s.regs.n := by simpa [blockOk, hop] using hb
      have hi : s.regs.i + 1 ≠ 0 := by bv_omega
      simp only [afterCall, hop]
      refine synced_peekLoop ?_ (.inr hrc)
      rintro (h0 | hpage)
      · exact absurd h0 hi
      · exact hptr.trans (advancePtr_eq_nextAddress hpage)
  | head => simp [blockOk] at hb
  | resend => simp [blockOk] at hb
  | close => simp [blockOk] at hb
  | last => simp [blockOk] at hb

/-- A Read-Finish is followed by an address phase or by the end. -/
theorem synced_afterCall_rfin {b : BlockPos} {p : RfinPos} (hb : blockOk b (.rfin p) s.regs = true) :
    Synced (afterCall b s) := by
  cases b with
  | close => exact synced_callAddr _
  | last => exact synced_of_finish rfl
  | head => simp [blockOk] at hb
  | resend => simp [blockOk] at hb
  | xfer => simp [blockOk] at hb

end

/-! ### Actions that the responder does not react to -/

/-- An action after which the responder, the level of nRD, the working registers and SRC are as before. -/
structure QuietAction (s t : State) : Prop where
  nRD : t.pins.nRD = s.pins.nRD
  regs : t.regs = s.regs
  src : t.src = s.src
  fix : t.fix = s.fix

section
variable {s t : State}

theorem quietAction_setPins {p : Pins} (h : setPins p s = { s with pins := p }) (hn : p.nRD = s.pins.nRD) :
    QuietAction s (setPins p s) := by
  rw [h]
  exact ⟨hn, rfl, rfl, rfl⟩

theorem quietAction_start (v : Bool) : QuietAction s (perform (.pin .start v) s) :=
  quietAction_setPins (setPins_of_same_edges rfl rfl) rfl

theorem quietAction_dir (d : Dir) : QuietAction s (perform (.dir d) s) :=
  quietAction_setPins (setPins_of_same_edges rfl rfl) rfl

/-- nRD written at the level it has. -/
theorem quietAction_nRD {v : Bool} (h : s.pins.nRD = v) : QuietAction s (perform (.pin .nRD v) s) :=
  quietAction_setPins (setPins_of_same_edges rfl h.symm) h.symm

/-- The edge of CLK that the responder does not look at: up while nRD = 1, down while nRD = 0. -/
theorem quietAction_clk {v : Bool} (h : s.pins.nRD = v) : QuietAction s (perform (.pin .clk v) s) :=
  quietAction_setPins (setPins_of_quiet_edge rfl h.symm) rfl

theorem quietAction_mwrite (b : Byte) (v : Bool) (h : s.owm = mBus) : QuietAction s (perform (.mwrite b v) s) := by
  rw [perform, mwrite_of_mBus b v h]
  exact ⟨rfl, rfl, rfl, rfl⟩

theorem synced_goto_addr {b : BlockPos} {p : AddrPos} (h : QuietAction s t) (hs : addrSynced p s.regs s.fix = true) :
    Synced (goto b (.addr p) t) :=
  (synced_of_addr (goto_seq b _ t)).mpr fun _ => by rw [goto_regs, goto_fix, h.regs, h.fix]; exact hs

theorem synced_goto_wdata {b : BlockPos} {p : WdataPos} (h : QuietAction s t) (hs : wdataSynced p s.src s.regs s.fix = true) :
    Synced (goto b (.wdata p) t) :=
  (synced_of_wdata (goto_seq b _ t)).mpr fun _ => by rw [goto_src, goto_regs, goto_fix, h.src, h.regs, h.fix]; exact hs

theorem synced_goto_rdata {b : BlockPos} {p : RdataPos} (h : QuietAction s t) (hs : rdataSynced p s.pins s.regs s.fix = true) :
    Synced (goto b (.rdata p) t) :=
  (synced_of_rdata (goto_seq b _ t)).mpr fun _ => by
    rw [goto_pins, goto_regs, goto_fix, h.regs, h.fix]
    cases p <;> simpa only [rdataSynced, h.nRD] using hs

end

/-! ### The waits -/

/-- What the answer to a sample of nWAIT and its reckoning leave behind. -/
theorem waitOver_sampleNWait_eq (s : State) : ∃ o d m n,
    waitOver (sampleNWait s).2 = { s with oracle := o, draws := d, fix := { s.fix with waits := m, polled := n } } := by
  obtain ⟨o, d, n, h⟩ := sampleNWait_eq s
  rw [h, waitOver_eq]
  by_cases he : s.env = .fixture
  · exact ⟨o, d, s.fix.waits + 1, 0, by rw [if_pos he]⟩
  · exact ⟨o, d, s.fix.waits, n, by rw [if_neg he]⟩

/-- A step of a wait keeps the mirror if what follows the wait does: a timeout ends the command, a sample of 0 changes nothing that
the mirror reads. -/
theorem synced_waitStep {s : State} {w : WaitKind} {cont : State → State} (hs : Synced s)
    (hcont : Synced (cont (waitOver (sampleNWait s).2))) : Synced (waitStep w cont s) := by
  obtain ⟨-, h⟩ | ⟨-, -, h⟩ | ⟨-, -, h⟩ := waitStep_cases w cont s
  · rw [h, raiseAckTimeout_eq]
    exact synced_of_idle rfl
  · rw [h]
    exact hcont
  · obtain ⟨o, d, n, hsample⟩ := sampleNWait_eq s
    rw [h, hsample, countPoll_eq]
    exact hs.bookkeeping o d s.fix.waits n _

/-! ### Each primitive keeps the mirror -/

section
variable {s : State} {b : BlockPos}

/-- What a good state says at a position of a primitive. -/
theorem Inv.placeOk_run {p : PrimPos} (hi : Inv s) (hq : s.seq = .run b p) : blockOk b p s.regs = true ∧ primOk p s = true := by
  have hplace := hi.place
  simpa only [placeOk, hq, Bool.and_eq_true] using hplace

theorem Inv.addrPinsOk_run {p : AddrPos} (hi : Inv s) (hq : s.seq = .run b (.addr p)) : addrPinsOk p s.regs s.pins = true := by
  obtain ⟨-, hp⟩ := hi.placeOk_run hq
  simp only [primOk, Bool.and_eq_true] at hp
  exact hp.2

theorem Inv.wdataPinsOk_run {p : WdataPos} (hi : Inv s) (hq : s.seq = .run b (.wdata p)) :
    wdataPinsOk p s.regs s.pins = true := by
  obtain ⟨-, hp⟩ := hi.placeOk_run hq
  simp only [primOk, Bool.and_eq_true] at hp
  exact hp.2

theorem Inv.rdataPinsOk_run {p : RdataPos} (hi : Inv s) (hq : s.seq = .run b (.rdata p)) :
    rdataPinsOk p s.readRun s.regs s.pins = true :=
  (hi.placeOk_run hq).2

/-- CLK falls in a beat of ADDR: the responder latches byte K of A, with START in beat 0 alone. -/
theorem perform_addr_lo (hi : Inv s) (he : s.env = .fixture) (hq : s.seq = .run b (.addr .lo)) :
    perform (.pin .clk false) s =
      { s with pins := { s.pins with clk := false }, fix := latchBeat (s.regs.k == 0) (muxByte s.regs.a s.regs.k.toNat) s.fix } := by
  have hp := hi.addrPinsOk_run hq
  simp only [addrPinsOk, Bool.and_eq_true, beq_iff_eq] at hp
  obtain ⟨⟨⟨⟨⟨-, hn⟩, hdir⟩, hstart⟩, hdout⟩, hclk⟩ := hp
  rw [perform_clk_of_latching_edge he hn hclk hdir (hi.drive he hn), hstart, hdout]

/-- CLK falls in a beat of WDATA: the responder latches byte K of W. -/
theorem perform_wdata_lo (hi : Inv s) (he : s.env = .fixture) (hq : s.seq = .run b (.wdata .lo)) :
    perform (.pin .clk false) s =
      { s with pins := { s.pins with clk := false }, fix := latchBeat false (muxByte s.regs.w s.regs.k.toNat) s.fix } := by
  have hp := hi.wdataPinsOk_run hq
  simp only [wdataPinsOk, Bool.and_eq_true, beq_iff_eq, Bool.not_eq_true'] at hp
  obtain ⟨⟨⟨hn, hdir⟩, hstart⟩, ⟨-, hdout⟩, hclk⟩ := hp
  rw [perform_clk_of_latching_edge he hn hclk hdir (hi.drive he hn), hstart, hdout]

/-- ADDR: up to its beats the mirror asks nothing; a beat gives the responder one byte; then the pointer is A (R80). -/
theorem synced_primStep_addr {p : AddrPos} (hi : Inv s) (hs : Synced s) (he : s.env = .fixture)
    (hq : s.seq = .run b (.addr p)) : Synced (primStep b (.addr p) s) := by
  have hpins := hi.addrPinsOk_run hq
  have hsync := (synced_of_addr hq).mp hs he
  cases p with
  | nRD => exact (synced_of_addr (p := .start) rfl).mpr fun _ => rfl
  | start => exact (synced_of_addr (p := .dir) rfl).mpr fun _ => rfl
  | dir => exact (synced_of_addr (p := .wait) rfl).mpr fun _ => rfl
  | wait => exact synced_waitStep hs ((synced_of_addr (p := .ce1) rfl).mpr fun _ => rfl)
  | ce1 => exact (synced_of_addr (p := .ce2) rfl).mpr fun _ => rfl
  | ce2 => exact (synced_of_addr (p := .ce3) rfl).mpr fun _ => rfl
  | ce3 =>
    simp only [addrPinsOk, Bool.and_eq_true, beq_iff_eq] at hpins
    obtain ⟨⟨⟨hk, -⟩, -⟩, -⟩ := hpins
    exact (synced_of_addr (p := .drv) rfl).mpr fun _ => (addrSynced_beat (by simp)).mpr (.inl hk)
  | drv =>
    have howm : s.owm = mBus := hi.mask (by rw [hq]; rfl)
    exact synced_goto_addr (quietAction_mwrite _ _ howm) hsync
  | hi =>
    simp only [addrPinsOk, Bool.and_eq_true, beq_iff_eq] at hpins
    obtain ⟨⟨⟨⟨-, hn⟩, -⟩, -⟩, -⟩ := hpins
    exact synced_goto_addr (quietAction_clk hn) hsync
  | lo =>
    simp only [addrPinsOk, Bool.and_eq_true, decide_eq_true_eq] at hpins
    obtain ⟨⟨⟨⟨⟨hk, -⟩, -⟩, -⟩, -⟩, -⟩ := hpins
    show Synced (nextBeat 4 b (.addr .drv) (.addr .cx1) (perform (.pin .clk false) s))
    rw [perform_addr_lo hi he hq, nextBeat]
    split
    · next hlt => exact (synced_of_addr (p := .drv) rfl).mpr fun _ => addrSynced_latch_next hlt hsync
    · next hge =>
      have hk4 : s.regs.k.toNat = 4 := Nat.le_antisymm hk (Nat.not_lt.mp hge)
      exact (synced_of_addr (p := .cx1) rfl).mpr fun _ => addrSynced_latch_last hk4 hsync
  | cx1 => exact (synced_of_addr (p := .cx2) rfl).mpr fun _ => hsync
  | cx2 =>
    simp only [addrPinsOk, Bool.and_eq_true] at hpins
    obtain ⟨⟨⟨⟨hn, -⟩, -⟩, -⟩, -⟩ := hpins
    obtain ⟨hb, -⟩ := hi.placeOk_run hq
    obtain ⟨hab, hwc, hptr⟩ := (addrSynced_done (by simp)).mp hsync
    exact synced_afterCall_addr (s := setInhibit false s) hb hn hab hwc hptr

/-- WDATA: the pointer stays at A while the bytes of W go over, then the word is stored there (R81). -/
theorem synced_primStep_wdata {p : WdataPos} (hi : Inv s) (hs : Synced s) (he : s.env = .fixture)
    (hq : s.seq = .run b (.wdata p)) : Synced (primStep b (.wdata p) s) := by
  have hpins := hi.wdataPinsOk_run hq
  have hsync := (synced_of_wdata hq).mp hs he
  simp only [wdataPinsOk, Bool.and_eq_true] at hpins
  obtain ⟨⟨⟨hn, -⟩, -⟩, hpins⟩ := hpins
  cases p with
  | nRD => exact synced_goto_wdata (quietAction_nRD hn) hsync
  | start => exact synced_goto_wdata (quietAction_start _) hsync
  | dir => exact synced_goto_wdata (quietAction_dir _) hsync
  | ce1 => exact (synced_of_wdata (p := .ce2) rfl).mpr fun _ => hsync
  | ce2 => exact (synced_of_wdata (p := .ce3) rfl).mpr fun _ => hsync
  | ce3 =>
    simp only [Bool.and_eq_true, beq_iff_eq] at hpins
    obtain ⟨hk, -⟩ := hpins
    obtain ⟨hab, hw, hwc, hptr⟩ := (wdataSynced_entry (by simp)).mp hsync
    refine (synced_of_wdata (p := .drv) rfl).mpr fun _ => (wdataSynced_beat (by simp)).mpr ⟨hab, hw, ?_, hptr, ?_⟩
    · show s.fix.wcnt.val = s.regs.k.toNat
      rw [hwc, hk]
      rfl
    · show lowBytesEq s.regs.k.toNat s.fix.sh s.regs.w = true
      rw [hk]
      rfl
  | drv =>
    have howm : s.owm = mBus := hi.mask (by rw [hq]; rfl)
    exact synced_goto_wdata (quietAction_mwrite _ _ howm) hsync
  | hi =>
    exact synced_goto_wdata (quietAction_clk hn) hsync
  | lo =>
    simp only [Bool.and_eq_true, decide_eq_true_eq] at hpins
    obtain ⟨⟨hk, -⟩, -⟩ := hpins
    show Synced (nextBeat 3 b (.wdata .drv) (.wdata .cx1) (perform (.pin .clk false) s))
    rw [perform_wdata_lo hi he hq, nextBeat]
    split
    · next hlt => exact (synced_of_wdata (p := .drv) rfl).mpr fun _ => wdataSynced_latch_next hlt hsync
    · next hge =>
      have hk3 : s.regs.k.toNat = 3 := Nat.le_antisymm hk (Nat.not_lt.mp hge)
      exact (synced_of_wdata (p := .cx1) rfl).mpr fun _ => wdataSynced_latch_last hk3 hi.memory hsync
  | cx1 => exact (synced_of_wdata (p := .cx2) rfl).mpr fun _ => hsync
  | cx2 =>
    show Synced (goto b (.wdata .wait) (enterWait (setInhibit false s)))
    rw [enterWait_eq]
    exact (synced_of_wdata (p := .wait) rfl).mpr fun _ => hsync
  | wait =>
    obtain ⟨hb, -⟩ := hi.placeOk_run hq
    obtain ⟨hab, -, hwc, hptr, -⟩ := (wdataSynced_done (by simp)).mp hsync
    refine synced_waitStep hs ?_
    obtain ⟨o, d, m, n, hover⟩ := waitOver_sampleNWait_eq s
    rw [hover]
    exact synced_afterCall_wdata hb hab hwc hptr

/-- RDATA: the pointer stays at A while the bytes of the word come over, each sampled as it was presented (R82). -/
theorem synced_primStep_rdata {p : RdataPos} (hi : Inv s) (hs : Synced s) (he : s.env = .fixture)
    (hq : s.seq = .run b (.rdata p)) : Synced (primStep b (.rdata p) s) := by
  have hpins := hi.rdataPinsOk_run hq
  have hsync := (synced_of_rdata hq).mp hs he
  simp only [rdataPinsOk, Bool.and_eq_true, Bool.not_eq_true'] at hpins
  obtain ⟨-, hpins⟩ := hpins
  cases p with
  | dir =>
    have hquiet := quietAction_dir (s := s) .inp
    exact synced_goto_rdata ⟨hquiet.nRD, hquiet.regs, hquiet.src, hquiet.fix⟩ hsync
  | nRD =>
    simp only [Bool.and_eq_true, beq_iff_eq] at hpins
    obtain ⟨⟨hk, -⟩, -⟩ := hpins
    obtain ⟨hptr, hrc⟩ := (rdataSynced_entry (by simp)).mp hsync
    show Synced (goto b (.rdata .lo) (perform (.pin .nRD false) s))
    rw [perform, writePin, setPins_of_same_clk (p := pinsWith .nRD false s.pins) he rfl]
    refine (synced_of_rdata (p := .lo) rfl).mpr fun _ => (rdataSynced_beat (by simp)).mpr ⟨?_, ?_, ?_⟩
    · exact (turnBus_ptr _ _ _).trans hptr
    · show (turnBus s.pins.nRD false s.fix).rcnt.val = s.regs.k.toNat
      rw [turnBus_down_rcnt hrc, hk]
      rfl
    · show lowBytesEq s.regs.k.toNat _ _ = true
      rw [hk]
      rfl
  | lo =>
    simp only [Bool.and_eq_true, Bool.not_eq_true'] at hpins
    obtain ⟨⟨-, hn⟩, -⟩ := hpins
    exact synced_goto_rdata (quietAction_clk hn) hsync
  | hi =>
    simp only [Bool.and_eq_true, Bool.not_eq_true'] at hpins
    obtain ⟨⟨⟨-, hn⟩, -⟩, hclk⟩ := hpins
    show Synced (goto b (.rdata .smp) (perform (.pin .clk true) s))
    rw [perform, writePin, setPins_of_presenting_edge (p := pinsWith .clk true s.pins) he hn hclk hn rfl]
    exact (synced_of_rdata (p := .smp) rfl).mpr fun _ => rdataSynced_present hsync
  | smp =>
    simp only [Bool.and_eq_true, decide_eq_true_eq, beq_iff_eq] at hpins
    obtain ⟨⟨⟨⟨hk, -⟩, -⟩, hdir⟩, -⟩ := hpins
    obtain ⟨hdrive, -, hend⟩ := rdataSynced_smp.mp hsync
    show Synced (rdataAfter b .smp (perform .sampleData s))
    rw [perform_sampleData_of_drive he hdir hdrive, rdataAfter]
    split
    · next hlt => exact (synced_of_rdata (p := .lo) rfl).mpr fun _ =>
        rdataSynced_sample_next (r := s.regs) hlt hsync
    · next hge =>
      have hk3 : s.regs.k.toNat = 3 := Nat.le_antisymm hk (Nat.not_lt.mp hge)
      rw [if_pos hk3] at hend
      obtain ⟨hb, -⟩ := hi.placeOk_run hq
      exact synced_afterCall_rdata hb hend.1 hend.2

/-- RFIN: the mirror asks nothing while reads are closed. -/
theorem synced_primStep_rfin {p : RfinPos} (hi : Inv s) (hs : Synced s) (hq : s.seq = .run b (.rfin p)) :
    Synced (primStep b (.rfin p) s) := by
  cases p with
  | clk => exact synced_of_rfin (p := .nRD) rfl
  | nRD => exact synced_of_rfin (p := .dir) rfl
  | dir => exact synced_of_rfin (p := .wait) rfl
  | wait =>
    obtain ⟨hb, -⟩ := hi.placeOk_run hq
    refine synced_waitStep hs ?_
    obtain ⟨o, d, m, n, hover⟩ := waitOver_sampleNWait_eq s
    rw [hover]
    exact synced_afterCall_rfin hb

/-- A primitive's step leaves the responder at the far end the one it is. -/
theorem primStep_env (b : BlockPos) (p : PrimPos) (s : State) : (primStep b p s).env = s.env := by
  obtain hf | ⟨w, h⟩ := primStep_frame_or_timeout b p s
  · exact hf.env
  · rw [h, raiseAckTimeout_eq]

theorem synced_primStep {p : PrimPos} (hi : Inv s) (hs : Synced s) (hq : s.seq = .run b p) : Synced (primStep b p s) := by
  by_cases he : s.env = .fixture
  · cases p with
    | addr p => exact synced_primStep_addr hi hs he hq
    | wdata p => exact synced_primStep_wdata hi hs he hq
    | rdata p => exact synced_primStep_rdata hi hs he hq
    | rfin p => exact synced_primStep_rfin hi hs hq
  · exact synced_of_oracle (by rw [primStep_env]; exact he)

end

/-! ### Every step keeps the mirror -/

theorem engineStep_keeps_synced {s t : State} (hi : Inv s) (hs : Synced s) (h : EngineStep s t) : Synced t := by
  cases h with
  | rest => exact hs
  | refuse hseq => exact synced_of_idle hseq
  | acceptPoke addr n =>
    unfold pokeLoop
    split
    · exact synced_callAddr _
    · exact synced_of_finish rfl
  | acceptPeek => exact synced_callAddr _
  | prim b p hseq => exact synced_primStep hi hs hseq
  | finish => exact synced_of_idle rfl

/-- The moves lined up are no part of what a good state is. -/
theorem Inv.withTurns {s : State} (h : Inv s) (ts : List Turn) : Inv { s with turns := ts } where
  memory := h.memory
  dest := h.dest
  bound := h.bound
  busy := h.busy
  inhibit := h.inhibit
  mask := h.mask
  save := h.save
  polls := h.polls
  drive := h.drive
  place := h.place

/-- Settles O38: the engine's steps move A and the pointer together, beat by beat, and no other agent's move touches either. -/
theorem stepKeepsThePointerMirrored : Obligations.StepKeepsThePointerMirrored := by
  intro s t hi hs h
  cases machineStep_of_step h with
  | engine ts t he => exact engineStep_keeps_synced (hi.withTurns ts) hs he
  | handlerOwm => exact hs
  | handlerPins => exact hs
  | configure => exact hs

end Sys2Proof.Machine
end

section
/-! SUPPORT. What a step does to the memory of the reference responder: O44. -/

namespace Sys2Proof.Machine

/-! ### Memory under the pointer (R86, R201) -/

/-- Only the fourth data byte of a word makes the responder write its memory (R86). -/
theorem latchBeat_mem_of_not_last {st : Bool} {d : Byte} {f : Fixture} (h : st = true ∨ f.abytes ≠ 0 ∨ f.wcnt ≠ 3) :
    (latchBeat st d f).mem = f.mem := by
  unfold latchBeat
  split
  · rfl
  · next hst =>
    split
    · rfl
    · next hab =>
      have hwc : f.wcnt ≠ 3 := by simpa [hst, hab] using h
      simp only [hwc, if_false]

theorem turnBus_abytes (x y : Bool) (f : Fixture) : (turnBus x y f).abytes = f.abytes := by
  unfold turnBus
  split
  · rfl
  · split <;> rfl

theorem turnBus_wcnt (x y : Bool) (f : Fixture) : (turnBus x y f).wcnt = f.wcnt := by
  unfold turnBus
  split
  · rfl
  · split <;> rfl

/-- The responder is one falling edge of CLK away from storing a word (R86). -/
def AboutToStore (s : State) : Prop := s.env = .fixture ∧ s.pins.clk = true ∧ s.fix.abytes = 0 ∧ s.fix.wcnt = 3

/-- Nothing outside the word at the pointer is written, and nothing at all but by the fourth byte of a word. -/
def WritesUnderPointer (s t : State) : Prop :=
  SameMemoryOutsidePointer s t ∧ (¬AboutToStore s → SameMemory s t)

section
variable {s t : State}

theorem writesUnderPointer_of_mem (h : t.fix.mem = s.fix.mem) : WritesUnderPointer s t :=
  ⟨fun _ _ => by rw [h], fun _ _ => by rw [h]⟩

theorem latchWires_mem_of_not_last (h : s.fix.abytes ≠ 0 ∨ s.fix.wcnt ≠ 3) : (latchWires s).fix.mem = s.fix.mem := by
  unfold latchWires
  split <;> exact latchBeat_mem_of_not_last (.inr h)

/-- A change of levels writes memory only with a word's fourth byte on the wires (R86). -/
theorem setPins_mem_of_not_aboutToStore (p : Pins) (h : ¬AboutToStore s) : (setPins p s).fix.mem = s.fix.mem := by
  by_cases hclk : s.pins.clk = true
  · cases he : s.env with
    | oracle => rw [setPins, watch_of_oracle (s := { s with pins := p }) _ he]
    | fixture =>
      have hcount : s.fix.abytes ≠ 0 ∨ s.fix.wcnt ≠ 3 := by
        rw [← not_and_or]
        exact fun hc => h ⟨he, hclk, hc⟩
      simp only [setPins, watch, he]
      split
      · rw [latchWires_mem_of_not_last (by simpa only [turnBus_abytes, turnBus_wcnt] using hcount), turnBus_mem]
      · split <;> simp only [presentByte_mem, turnBus_mem]
  · have hlow : s.pins.clk = false := by simpa using hclk
    refine setPins_mem ?_
    rw [hlow]
    cases p.clk <;> simp

theorem setPins_writesUnderPointer (p : Pins) (s : State) : WritesUnderPointer s (setPins p s) :=
  ⟨fun _ hkey => setPins_readByte_outside p hkey, fun h _ => by rw [setPins_mem_of_not_aboutToStore p h]⟩

/-- Every action of R130 writes memory only so. -/
theorem perform_writesUnderPointer (x : Action) (s : State) : WritesUnderPointer s (perform x s) := by
  cases x with
  | pin p v => exact setPins_writesUnderPointer _ s
  | dir d => exact setPins_writesUnderPointer _ s
  | mwrite b v => exact setPins_writesUnderPointer _ { s with otherPins := maskedOthers s.owm s.otherPins }
  | sampleData =>
    obtain ⟨o, d, h⟩ := sampleData_eq s
    exact writesUnderPointer_of_mem (by simp only [perform, readBeat, h])
  | sampleNWait =>
    obtain ⟨o, d, n, h⟩ := sampleNWait_eq s
    exact writesUnderPointer_of_mem (by simp only [perform, h])
  | inhibit v => exact writesUnderPointer_of_mem rfl
  | saveOwm => exact writesUnderPointer_of_mem rfl
  | writeOwmBus => exact writesUnderPointer_of_mem rfl
  | restoreOwm => exact writesUnderPointer_of_mem rfl

/-- Block control and the sequencer do not touch the responder. -/
theorem primAfter_fix (b : BlockPos) (p : PrimPos) (s : State) : (primAfter b p s).fix = s.fix := by
  obtain ⟨q, r, d, v, h⟩ := controlOnly_primAfter b p s
  rw [h]

/-- No step of a wait writes memory. -/
theorem waitStep_mem (w : WaitKind) (b : BlockPos) (p : PrimPos) (s : State) :
    (waitStep w (primAfter b p) s).fix.mem = s.fix.mem := by
  obtain ⟨-, h⟩ | ⟨-, -, h⟩ | ⟨-, -, h⟩ := waitStep_cases w (primAfter b p) s
  · rw [h, raiseAckTimeout_eq]
    split <;> rfl
  · obtain ⟨o, d, m, n, hover⟩ := waitOver_sampleNWait_eq s
    rw [h, primAfter_fix, hover]
  · obtain ⟨o, d, n, hsample⟩ := sampleNWait_eq s
    rw [h, hsample, countPoll_eq]

theorem primStep_writesUnderPointer (b : BlockPos) (p : PrimPos) (s : State) : WritesUnderPointer s (primStep b p s) := by
  cases hw : primWait p with
  | none =>
    have hact := perform_writesUnderPointer (primAction s.regs p) s
    rw [primStep_of_action b s hw]
    unfold WritesUnderPointer SameMemoryOutsidePointer SameMemory
    rw [primAfter_fix]
    exact hact
  | some w =>
    rw [primStep_of_wait b s hw]
    exact writesUnderPointer_of_mem (waitStep_mem w b p s)

theorem engineStep_writesUnderPointer (h : EngineStep s t) : WritesUnderPointer s t := by
  cases h with
  | rest => exact writesUnderPointer_of_mem rfl
  | refuse => exact writesUnderPointer_of_mem rfl
  | acceptPoke addr n =>
    obtain ⟨q, w, k, e⟩ := pokeLoop_eq (accept .poke addr n s)
    exact writesUnderPointer_of_mem (by rw [e]; rfl)
  | acceptPeek => exact writesUnderPointer_of_mem rfl
  | prim b p => exact primStep_writesUnderPointer b p s
  | finish => exact writesUnderPointer_of_mem rfl

end

/-- Settles O44: of all actions only a pin write can make the responder latch, and it latches under its pointer. -/
theorem memoryChangesOnlyUnderThePointer : Obligations.MemoryChangesOnlyUnderThePointer := by
  intro s t h
  cases machineStep_of_step h with
  | engine ts t he =>
    have hwrites := engineStep_writesUnderPointer he
    exact hwrites
  | handlerOwm => exact writesUnderPointer_of_mem rfl
  | handlerPins => exact writesUnderPointer_of_mem rfl
  | configure => exact writesUnderPointer_of_mem rfl

end Sys2Proof.Machine
end

section
/-! SUPPORT. Runs of several steps, and a wait that samples its delay: O22. -/

namespace Sys2Proof.Machine

/-! ### Runs -/

theorem runsTo_zero (s : State) : runsTo 0 s s := rfl

/-- A run of `k + 1` steps is a step and a run of `k`, whatever the machine. -/
theorem core_run_succ {M : Host.Core} {k : Nat} {s t : M.State} :
    M.run (k + 1) s = .next t ↔ ∃ u, M.step s = .next u ∧ M.run k u = .next t := by
  rw [Host.Core.run]
  cases M.step s <;> simp

theorem runsTo_succ {k : Nat} {s t : State} : runsTo (k + 1) s t ↔ ∃ u, step s = .next u ∧ runsTo k u t :=
  core_run_succ (M := Sys2Proof.core)

/-- Runs follow one another. -/
theorem runsTo_trans {j k : Nat} {s t u : State} (hj : runsTo j s u) (hk : runsTo k u t) : runsTo (j + k) s t := by
  induction j generalizing s with
  | zero =>
    obtain rfl : s = u := Host.Outcome.next.inj hj
    rwa [Nat.zero_add]
  | succ j ih =>
    obtain ⟨v, hstep, hrun⟩ := runsTo_succ.mp hj
    rw [Nat.add_right_comm]
    exact runsTo_succ.mpr ⟨v, hstep, ih hrun⟩

/-- A run ends with a step. -/
theorem runsTo_snoc {k : Nat} {s u t : State} (hrun : runsTo k s u) (h : step u = .next t) : runsTo (k + 1) s t :=
  runsTo_trans hrun (runsTo_succ.mpr ⟨t, h, runsTo_zero t⟩)

/-- A step inside a primitive, the engine to move. -/
theorem step_eq_primStep {s : State} {b : BlockPos} {p : PrimPos} (hturns : s.turns = []) (hseq : s.seq = .run b p) :
    step s = .next (primStep b p s) := by
  rw [step_of_run hturns hseq, exec_primInstr hseq]

/-! ### A wait with a delay (R88, R139) -/

theorem isWait_run (b : BlockPos) (p : PrimPos) : isWait (.run b p) = (primWait p).isSome := by
  cases p with
  | addr p => cases p <;> rfl
  | wdata p => cases p <;> rfl
  | rdata p => rfl
  | rfin p => cases p <;> rfl

/-- A wait of the reference responder that has sampled `k` zeros, from its start at `s`. -/
def sampledZeros (k : Nat) (s : State) : State :=
  { s with
    regs := { s.regs with polls := if s.waitBound = none then 0 else k }
    fix := { s.fix with polled := k } }

theorem sampledZeros_zero {s : State} (hpolled : s.fix.polled = 0) (hpolls : s.regs.polls = 0) : sampledZeros 0 s = s := by
  have hregs : { s.regs with polls := 0 } = s.regs := by rw [← hpolls]
  have hfix : { s.fix with polled := 0 } = s.fix := by rw [← hpolled]
  rw [sampledZeros, ite_self, hregs, hfix]

theorem boundReached_sampledZeros {k : Nat} {s : State} (h : ∀ bound, s.waitBound = some bound → k < bound) :
    boundReached (sampledZeros k s) = false := by
  cases hb : s.waitBound with
  | none => exact boundReached_unbounded hb
  | some bound =>
    have hlt := h bound hb
    simp [boundReached, sampledZeros, hb]
    omega

section
variable {s : State} {b : BlockPos} {p : PrimPos} {w : WaitKind} {d k : Nat}

/-- Before the delay is over a sample is 0, and it is counted on both sides. -/
theorem primStep_sampledZeros (hw : primWait p = some w) (he : s.env = .fixture)
    (hd : scriptDelay s.fix.script s.fix.waits = some d) (hb : boundReached (sampledZeros k s) = false) (hk : k < d) :
    primStep b p (sampledZeros k s) = sampledZeros (k + 1) s := by
  have hsample := sampleNWait_of_delay (s := sampledZeros k s) he hd
  rw [if_pos (show (sampledZeros k s).fix.polled < d from hk)] at hsample
  rw [primStep_of_wait b _ hw]
  unfold waitStep
  simp only [hb, hsample, Bool.false_eq_true, if_false]
  rw [countPoll_eq]
  by_cases hn : s.waitBound = none <;> simp [sampledZeros, hn]

/-- Once the delay is over the sample is 1 and the wait is left. -/
theorem primStep_delay_over (hw : primWait p = some w) (he : s.env = .fixture)
    (hd : scriptDelay s.fix.script s.fix.waits = some d) (hb : boundReached s = false) (hk : d ≤ s.fix.polled) :
    primStep b p s = primAfter b p { s with fix := { s.fix with waits := s.fix.waits + 1, polled := 0 } } := by
  have hsample := sampleNWait_of_delay he hd
  rw [if_neg (by omega)] at hsample
  rw [primStep_of_wait b _ hw]
  unfold waitStep
  simp only [hb, hsample, Bool.false_eq_true, if_false]
  rw [waitOver_eq, if_pos he]

/-- The zeros of a wait, one step each. -/
theorem runsTo_sampledZeros (hturns : s.turns = []) (hseq : s.seq = .run b p) (hw : primWait p = some w)
    (he : s.env = .fixture) (hd : scriptDelay s.fix.script s.fix.waits = some d) (hpolled : s.fix.polled = 0)
    (hpolls : s.regs.polls = 0) (hbound : ∀ bound, s.waitBound = some bound → d < bound) (hk : k ≤ d) :
    runsTo k s (sampledZeros k s) := by
  induction k with
  | zero =>
    rw [sampledZeros_zero hpolled hpolls]
    exact runsTo_zero s
  | succ k ih =>
    have hb : boundReached (sampledZeros k s) = false :=
      boundReached_sampledZeros fun bound h => Nat.lt_trans hk (hbound bound h)
    refine runsTo_snoc (ih (Nat.le_of_succ_le hk)) ?_
    rw [step_eq_primStep (s := sampledZeros k s) hturns hseq, primStep_sampledZeros hw he hd hb hk]

end

/-- Block control does not look at what a wait writes: the count of polls, the responder, whether a read runs. -/
theorem afterCall_seq_of_bookkeeping (b : BlockPos) (s : State) (polls : Nat) (f : Fixture) (v : Bool) :
    (afterCall b { s with regs := { s.regs with polls := polls }, fix := f, readRun := v }).seq = (afterCall b s).seq := by
  cases b with
  | head =>
    cases hop : s.regs.op with
    | poke => simp only [afterCall, hop, callWdata_seq]
    | peek =>
      simp only [afterCall, hop, peekLoop]
      split_ifs <;> rfl
  | close => rfl
  | resend => rfl
  | xfer =>
    cases hop : s.regs.op with
    | poke =>
      simp only [afterCall, hop, pokeLoop, advanceWord_regs]
      split_ifs <;> rfl
    | peek =>
      simp only [afterCall, hop, peekLoop, advanceWord_regs, storeDest_regs]
      split_ifs <;> rfl
  | last => rfl

/-- Where a wait leads when it is over: ADDR goes on to its critical section, WDATA and RFIN return. -/
def seqAfterWait (b : BlockPos) (s : State) : PrimPos → Seq
  | .addr _ => .run b (.addr .ce1)
  | _ => (afterCall b s).seq

theorem primAfter_seq_of_wait {p : PrimPos} {w : WaitKind} (b : BlockPos) (s : State) (polls : Nat) (f : Fixture)
    (hw : primWait p = some w) :
    (primAfter b p { s with regs := { s.regs with polls := polls }, fix := f }).seq = seqAfterWait b s p := by
  cases p with
  | addr p =>
    cases p with
    | wait => rfl
    | _ => cases hw
  | wdata p =>
    cases p with
    | wait => exact afterCall_seq_of_bookkeeping b s polls f s.readRun
    | _ => cases hw
  | rdata p => cases hw
  | rfin p =>
    cases p with
    | wait => exact afterCall_seq_of_bookkeeping b s polls f false
    | _ => cases hw

/-- Settles O22: the zeros by induction on their number, and the sample of 1 after them. -/
theorem waitSamplesExactlyItsDelay : Obligations.WaitSamplesExactlyItsDelay := by
  intro s b p d hturns hseq hwait he hd hpolled hpolls hbound
  rw [hseq, isWait_run, Option.isSome_iff_exists] at hwait
  obtain ⟨w, hw⟩ := hwait
  have hzeros : ∀ k, k ≤ d → runsTo k s (sampledZeros k s) := fun k hk =>
    runsTo_sampledZeros hturns hseq hw he hd hpolled hpolls hbound hk
  have hover := primStep_delay_over (s := sampledZeros d s) (b := b) hw he hd (boundReached_sampledZeros hbound) (Nat.le_refl d)
  have hlast := step_eq_primStep (s := sampledZeros d s) hturns hseq
  rw [hover] at hlast
  refine ⟨hzeros, _, runsTo_snoc (hzeros d (Nat.le_refl d)) hlast, primAfter_fix _ _ _, ?_, ?_, ?_, ?_, ?_,
    (primAfter_seq_of_wait b s _ _ hw).trans (by cases p <;> rfl)⟩
  all_goals
    obtain ⟨q, r, e, v, h⟩ := controlOnly_primAfter b p
      { sampledZeros d s with fix := { (sampledZeros d s).fix with waits := (sampledZeros d s).fix.waits + 1, polled := 0 } }
    rw [h]
  · rfl
  · rfl
  · rfl
  · rfl
  · constructor <;> rfl

end Sys2Proof.Machine
end

section
/-! SUPPORT. The words in transfer: what a step of a primitive can do to them with the reference responder, said once, and O39. -/

namespace Sys2Proof.Machine

/-! ### What a step can do to the words in transfer -/

/-- The command in flight, its running address and index, SRC and DEST are as before. -/
structure SameTransfer (s t : State) : Prop where
  env : t.env = s.env
  op : t.regs.op = s.regs.op
  n : t.regs.n = s.regs.n
  a : t.regs.a = s.regs.a
  i : t.regs.i = s.regs.i
  src : t.src = s.src
  dest : t.dest = s.dest

/-- The command in flight has come to its next word (R192). -/
structure NextWord (s t : State) : Prop where
  env : t.env = s.env
  op : t.regs.op = s.regs.op
  n : t.regs.n = s.regs.n
  a : t.regs.a = nextAddress s.regs.a
  i : t.regs.i = s.regs.i + 1
  src : t.src = s.src
  more : s.regs.i < s.regs.n

/-- What a step can do to the words in transfer: nothing; the responder stores word I of a POKE at A (R86); word I of a POKE, in
memory already, is done (R190); word I of a PEEK goes to DEST[I] (R191). -/
inductive TransferStep (s t : State) : Prop where
  | same (h : SameTransfer s t) (hmem : t.fix.mem = s.fix.mem)
  | stored (h : SameTransfer s t) (hop : s.regs.op = .poke) (hmore : s.regs.i < s.regs.n)
      (hmem : t.fix.mem = writeWord s.fix.mem s.regs.a (srcAt s.src s.regs.i.toNat))
  | poked (h : NextWord s t) (hop : s.regs.op = .poke) (hmem : t.fix.mem = s.fix.mem) (hdest : t.dest = s.dest)
      (hword : readWord s.fix.mem s.regs.a = srcAt s.src s.regs.i.toNat)
  | peeked (h : NextWord s t) (hop : s.regs.op = .peek) (hmem : t.fix.mem = s.fix.mem)
      (hdest : t.dest = destWrite s.dest s.regs.i.toNat (readWord s.fix.mem s.regs.a))

section
variable {s t u : State}

theorem SameTransfer.trans (h : SameTransfer s u) (h' : SameTransfer u t) : SameTransfer s t where
  env := h'.env.trans h.env
  op := h'.op.trans h.op
  n := h'.n.trans h.n
  a := h'.a.trans h.a
  i := h'.i.trans h.i
  src := h'.src.trans h.src
  dest := h'.dest.trans h.dest

theorem NextWord.of_same (h : SameTransfer s u) (h' : NextWord u t) : NextWord s t where
  env := h'.env.trans h.env
  op := h'.op.trans h.op
  n := h'.n.trans h.n
  a := by rw [h'.a, h.a]
  i := by rw [h'.i, h.i]
  src := h'.src.trans h.src
  more := by rw [← h.i, ← h.n]; exact h'.more

/-- What comes before and changes nothing of the transfer does not count. -/
theorem TransferStep.of_same (h : SameTransfer s u) (hmem : u.fix.mem = s.fix.mem) (h' : TransferStep u t) :
    TransferStep s t := by
  cases h' with
  | same h' hmem' => exact .same (h.trans h') (hmem'.trans hmem)
  | stored h' hop hmore hmem' =>
    rw [hmem, h.a, h.src, h.i] at hmem'
    exact .stored (h.trans h') (h.op.symm.trans hop) (by rw [← h.i, ← h.n]; exact hmore) hmem'
  | poked h' hop hmem' hdest hword =>
    rw [hmem, h.a, h.src, h.i] at hword
    exact .poked (h'.of_same h) (h.op.symm.trans hop) (hmem'.trans hmem) (hdest.trans h.dest) hword
  | peeked h' hop hmem' hdest =>
    rw [hmem, h.a, h.i, h.dest] at hdest
    exact .peeked (h'.of_same h) (h.op.symm.trans hop) (hmem'.trans hmem) hdest

/-! ### Actions and waits -/

/-- What an action of R130 can write at all: latches, masks, IRQ_INHIBIT and W; the rest is the other agents'. -/
theorem perform_eq (x : Action) (s : State) : ∃ q v m m' inhibit w o f d, perform x s =
    { s with pins := q, otherPins := v, owm := m, owmSaved := m', irqInhibit := inhibit, regs := { s.regs with w := w },
             oracle := o, fix := f, draws := d } := by
  have hpins : ∀ (q : Pins) (s : State), ∃ f d, setPins q s = { s with pins := q, fix := f, draws := d } :=
    fun q s => watch_eq s.pins { s with pins := q }
  cases x with
  | pin p v =>
    obtain ⟨f, d, h⟩ := hpins (pinsWith p v s.pins) s
    exact ⟨_, _, _, _, _, _, _, _, _, h⟩
  | dir e =>
    obtain ⟨f, d, h⟩ := hpins { s.pins with dir := e } s
    exact ⟨_, _, _, _, _, _, _, _, _, h⟩
  | mwrite b v =>
    obtain ⟨f, d, h⟩ := hpins (maskedPins s.owm b v s.pins) { s with otherPins := maskedOthers s.owm s.otherPins }
    exact ⟨_, _, _, _, _, _, _, _, _, h⟩
  | sampleData =>
    obtain ⟨o, d, h⟩ := sampleData_eq s
    simp only [perform, readBeat, h]
    exact ⟨_, _, _, _, _, _, _, _, _, rfl⟩
  | sampleNWait =>
    obtain ⟨o, d, n, h⟩ := sampleNWait_eq s
    exact ⟨_, _, _, _, _, _, _, _, _, h⟩
  | inhibit v => exact ⟨_, _, _, _, _, _, _, _, _, rfl⟩
  | saveOwm => exact ⟨_, _, _, _, _, _, _, _, _, rfl⟩
  | writeOwmBus => exact ⟨_, _, _, _, _, _, _, _, _, rfl⟩
  | restoreOwm => exact ⟨_, _, _, _, _, _, _, _, _, rfl⟩

theorem perform_sameTransfer (x : Action) (s : State) : SameTransfer s (perform x s) := by
  obtain ⟨q, v, m, m', i, w, o, f, d, h⟩ := perform_eq x s
  rw [h]
  constructor <;> rfl

/-- K is block control's and the beats' (R25). -/
theorem perform_k (x : Action) (s : State) : (perform x s).regs.k = s.regs.k := by
  obtain ⟨q, v, m, m', i, w, o, f, d, h⟩ := perform_eq x s
  rw [h]

/-- Only a falling edge of CLK at nRD = 1 can make the responder write its memory (R86). -/
theorem perform_mem {x : Action} (h : x = .pin .clk false → s.pins.clk = false ∨ s.pins.nRD = false)
    (hmask : ∀ b v, x = .mwrite b v → s.owm = mBus) : (perform x s).fix.mem = s.fix.mem := by
  cases x with
  | pin p v =>
    refine setPins_mem ?_
    cases p with
    | clk =>
      cases v with
      | true => exact .inr (.inl rfl)
      | false => exact (h rfl).imp Eq.symm .inr
    | nRD => exact .inl rfl
    | start => exact .inl rfl
  | dir d => exact setPins_mem (.inl rfl)
  | mwrite b v => rw [perform, mwrite_of_mBus b v (hmask b v rfl)]
  | sampleData =>
    obtain ⟨o, d, h⟩ := sampleData_eq s
    simp only [perform, readBeat, h]
  | sampleNWait =>
    obtain ⟨o, d, n, h⟩ := sampleNWait_eq s
    simp only [perform, h]
  | inhibit v => rfl
  | saveOwm => rfl
  | writeOwmBus => rfl
  | restoreOwm => rfl

theorem waitOver_sampleNWait_sameTransfer (s : State) : SameTransfer s (waitOver (sampleNWait s).2) := by
  obtain ⟨o, d, m, n, h⟩ := waitOver_sampleNWait_eq s
  rw [h]
  constructor <;> rfl

theorem waitOver_sampleNWait_mem (s : State) : (waitOver (sampleNWait s).2).fix.mem = s.fix.mem := by
  obtain ⟨o, d, m, n, h⟩ := waitOver_sampleNWait_eq s
  rw [h]

theorem countPoll_sampleNWait_sameTransfer (s : State) : SameTransfer s (countPoll (sampleNWait s).2) := by
  obtain ⟨o, d, n, h⟩ := sampleNWait_eq s
  rw [h, countPoll_eq]
  constructor <;> rfl

theorem raiseAckTimeout_sameTransfer (w : WaitKind) (s : State) : SameTransfer s (raiseAckTimeout w s) := by
  rw [raiseAckTimeout_eq]
  constructor <;> rfl

/-! ### Going on after a position -/

/-- Whether a primitive returns to block control after this position. -/
def returnsAt (k : BitVec 3) : PrimPos → Bool
  | .addr p => p == .cx2
  | .wdata p => p == .wait
  | .rdata p => p == .smp && decide (3 ≤ k.toNat)
  | .rfin p => p == .wait

/-- The position after one of ADDR (R162); `cx2` is the last. -/
def addrNext (k : BitVec 3) : AddrPos → AddrPos
  | .nRD => .start
  | .start => .dir
  | .dir => .wait
  | .wait => .ce1
  | .ce1 => .ce2
  | .ce2 => .ce3
  | .ce3 => .drv
  | .drv => .hi
  | .hi => .lo
  | .lo => if k.toNat < 4 then .drv else .cx1
  | .cx1 => .cx2
  | .cx2 => .cx2

/-- The position after one of WDATA (R166); `wait` is the last. -/
def wdataNext (k : BitVec 3) : WdataPos → WdataPos
  | .nRD => .start
  | .start => .dir
  | .dir => .ce1
  | .ce1 => .ce2
  | .ce2 => .ce3
  | .ce3 => .drv
  | .drv => .hi
  | .hi => .lo
  | .lo => if k.toNat < 3 then .drv else .cx1
  | .cx1 => .cx2
  | .cx2 => .wait
  | .wait => .wait

/-- The position after one of RDATA (R170); `smp` of beat 3 is the last. -/
def rdataNext : RdataPos → RdataPos
  | .dir => .nRD
  | .nRD => .lo
  | .lo => .hi
  | .hi => .smp
  | .smp => .lo

/-- The position after one of RFIN (R174); `wait` is the last. -/
def rfinNext : RfinPos → RfinPos
  | .clk => .nRD
  | .nRD => .dir
  | .dir => .wait
  | .wait => .wait

/-- The position after one at which the primitive does not return. -/
def nextPos (k : BitVec 3) : PrimPos → PrimPos
  | .addr p => .addr (addrNext k p)
  | .wdata p => .wdata (wdataNext k p)
  | .rdata p => .rdata (rdataNext p)
  | .rfin p => .rfin (rfinNext p)

/-- K after a position at which the primitive does not return: the end of a beat before the last counts it. -/
def nextK (k : BitVec 3) : PrimPos → BitVec 3
  | .addr .lo => if k.toNat < 4 then k + 1 else k
  | .wdata .lo => if k.toNat < 3 then k + 1 else k
  | .rdata .smp => k + 1
  | _ => k

/-- The positions right before a wait. -/
def entersWait : PrimPos → Bool
  | .addr p => p == .dir
  | .wdata p => p == .cx2
  | .rdata _ => false
  | .rfin p => p == .dir

/-- The state inside the same call, at the next position. -/
def stayInCall (b : BlockPos) (p : PrimPos) (s : State) : State :=
  { s with
    seq := .run b (nextPos s.regs.k p)
    regs := { s.regs with
      k := nextK s.regs.k p
      polls := if entersWait p then (if s.waitBound = none then s.regs.polls else 0) else s.regs.polls }
    readRun := p == .rdata .dir || s.readRun }

/-- The end of a beat: another beat, or on with K as it is. -/
theorem nextBeat_eq (last : Nat) (b : BlockPos) (p q : PrimPos) (s : State) :
    nextBeat last b p q s = { s with
      seq := .run b (if s.regs.k.toNat < last then p else q)
      regs := { s.regs with k := if s.regs.k.toNat < last then s.regs.k + 1 else s.regs.k } } := by
  unfold nextBeat goto
  split <;> rfl

/-- A primitive that does not return stays in its call. -/
theorem primAfter_of_not_returnsAt {p : PrimPos} (b : BlockPos) (s : State) (h : returnsAt s.regs.k p = false) :
    primAfter b p s = stayInCall b p s := by
  cases p with
  | addr p =>
    cases p with
    | dir => simp only [primAfter, addrAfter, enterWait_eq]; rfl
    | lo =>
      simp only [primAfter, addrAfter, nextBeat_eq, stayInCall, nextPos, addrNext, nextK]
      split <;> rfl
    | cx2 => cases h
    | _ => rfl
  | wdata p =>
    cases p with
    | cx2 => simp only [primAfter, wdataAfter, enterWait_eq]; rfl
    | lo =>
      simp only [primAfter, wdataAfter, nextBeat_eq, stayInCall, nextPos, wdataNext, nextK]
      split <;> rfl
    | wait => cases h
    | _ => rfl
  | rdata p =>
    cases p with
    | smp =>
      have hk : s.regs.k.toNat < 3 := by simpa [returnsAt] using h
      simp only [primAfter, rdataAfter, hk, if_true]
      rfl
    | _ => rfl
  | rfin p =>
    cases p with
    | dir => simp only [primAfter, rfinAfter, enterWait_eq]; rfl
    | wait => cases h
    | _ => rfl

theorem stayInCall_sameTransfer (b : BlockPos) (p : PrimPos) (s : State) : SameTransfer s (stayInCall b p s) := by
  constructor <;> rfl

/-- Whether a read is in progress once a primitive has returned: Read-Finish closes it (R37 (c), R72). -/
def readRunAfter (v : Bool) : PrimPos → Bool
  | .rfin _ => false
  | _ => v

/-- A primitive that returns gives way to block control. -/
theorem primAfter_of_returnsAt {p : PrimPos} (b : BlockPos) (s : State) (h : returnsAt s.regs.k p = true) :
    primAfter b p s = afterCall b { s with readRun := readRunAfter s.readRun p } := by
  cases p with
  | addr p =>
    obtain rfl : p = .cx2 := by simpa [returnsAt] using h
    rfl
  | wdata p =>
    obtain rfl : p = .wait := by simpa [returnsAt] using h
    rfl
  | rdata p =>
    obtain ⟨rfl, hk⟩ : p = .smp ∧ 3 ≤ s.regs.k.toNat := by simpa [returnsAt] using h
    simp only [primAfter, rdataAfter, if_neg (Nat.not_lt.mpr hk)]
    rfl
  | rfin p =>
    obtain rfl : p = .wait := by simpa [returnsAt] using h
    rfl

theorem pokeLoop_sameTransfer (s : State) : SameTransfer s (pokeLoop s) := by
  obtain ⟨q, w, k, h⟩ := pokeLoop_eq s
  rw [h]
  constructor <;> rfl

theorem peekLoop_sameTransfer (s : State) : SameTransfer s (peekLoop s) := by
  obtain ⟨q, k, h⟩ := peekLoop_eq s
  rw [h]
  constructor <;> rfl

/-- Block control after a call that transfers no word. -/
theorem afterCall_sameTransfer {b : BlockPos} (s : State) (h : b ≠ .xfer) : SameTransfer s (afterCall b s) := by
  cases b with
  | head =>
    cases hop : s.regs.op with
    | poke => simp only [afterCall, hop]; constructor <;> rfl
    | peek => simp only [afterCall, hop]; exact peekLoop_sameTransfer s
  | close => constructor <;> rfl
  | resend => constructor <;> rfl
  | xfer => exact absurd rfl h
  | last => constructor <;> rfl

theorem afterCall_fix (b : BlockPos) (s : State) : (afterCall b s).fix = s.fix := by
  obtain ⟨q, r, d, h⟩ := afterCall_eq b s
  rw [h]

theorem afterCall_xfer_of_poke (h : s.regs.op = .poke) : afterCall .xfer s = pokeLoop (advanceWord s) := by
  simp only [afterCall, h]

theorem afterCall_xfer_of_peek (h : s.regs.op = .peek) : afterCall .xfer s = peekLoop (advanceWord (storeDest s)) := by
  simp only [afterCall, h]

theorem advanceWord_nextWord (h : s.regs.i < s.regs.n) : NextWord s (advanceWord s) where
  env := rfl
  op := rfl
  n := rfl
  a := rfl
  i := rfl
  src := rfl
  more := h

theorem NextWord.of_next (h : NextWord s u) (h' : SameTransfer u t) : NextWord s t where
  env := h'.env.trans h.env
  op := h'.op.trans h.op
  n := h'.n.trans h.n
  a := h'.a.trans h.a
  i := h'.i.trans h.i
  src := h'.src.trans h.src
  more := h.more

/-! ### Which primitive runs at which line (R190, R191) -/

theorem blockOk_addr {b : BlockPos} {p : AddrPos} {r : Regs} (h : blockOk b (.addr p) r = true) : b ≠ .xfer := by
  rintro rfl
  simp [blockOk] at h

theorem blockOk_rfin {b : BlockPos} {p : RfinPos} {r : Regs} (h : blockOk b (.rfin p) r = true) : b ≠ .xfer := by
  rintro rfl
  simp [blockOk] at h

theorem blockOk_wdata {b : BlockPos} {p : WdataPos} {r : Regs} (h : blockOk b (.wdata p) r = true) :
    b = .xfer ∧ r.op = .poke ∧ r.i < r.n := by
  cases b <;> cases hop : r.op <;> simp [blockOk, hop] at h
  exact ⟨rfl, rfl, h⟩

theorem blockOk_rdata {b : BlockPos} {p : RdataPos} {r : Regs} (h : blockOk b (.rdata p) r = true) :
    b = .xfer ∧ r.op = .peek ∧ r.i < r.n := by
  cases b <;> cases hop : r.op <;> simp [blockOk, hop] at h
  exact ⟨rfl, rfl, h⟩

/-- Block control after a primitive: a word written is in memory by then, a word read is in W. -/
theorem afterCall_transferStep {b : BlockPos} {p : PrimPos} (hb : blockOk b p s.regs = true)
    (hwrote : ∀ q, p = .wdata q → readWord s.fix.mem s.regs.a = srcAt s.src s.regs.i.toNat)
    (hread : ∀ q, p = .rdata q → s.regs.w = readWord s.fix.mem s.regs.a) : TransferStep s (afterCall b s) := by
  have hmem : (afterCall b s).fix.mem = s.fix.mem := by rw [afterCall_fix]
  cases p with
  | addr p => exact .same (afterCall_sameTransfer s (blockOk_addr hb)) hmem
  | rfin p => exact .same (afterCall_sameTransfer s (blockOk_rfin hb)) hmem
  | wdata p =>
    obtain ⟨rfl, hop, hmore⟩ := blockOk_wdata hb
    have hloop := pokeLoop_sameTransfer (advanceWord s)
    rw [afterCall_xfer_of_poke hop] at hmem ⊢
    exact .poked ((advanceWord_nextWord hmore).of_next hloop) hop hmem hloop.dest (hwrote p rfl)
  | rdata p =>
    obtain ⟨rfl, hop, hmore⟩ := blockOk_rdata hb
    have hloop := peekLoop_sameTransfer (advanceWord (storeDest s))
    have hnext : NextWord s (advanceWord (storeDest s)) :=
      { env := rfl, op := rfl, n := rfl, a := rfl, i := rfl, src := rfl, more := hmore }
    rw [afterCall_xfer_of_peek hop] at hmem ⊢
    refine .peeked (hnext.of_next hloop) hop hmem (hloop.dest.trans ?_)
    rw [← hread p rfl]
    rfl

/-! ### One step of a primitive -/

/-- The fourth beat of WDATA stores the source word at A; no other action of a primitive writes memory (R86, R201). -/
theorem primAction_mem {b : BlockPos} {p : PrimPos} (hi : Inv s) (hs : Synced s) (he : s.env = .fixture)
    (hq : s.seq = .run b p) :
    (perform (primAction s.regs p) s).fix.mem = s.fix.mem ∨
    (p = .wdata .lo ∧
      (perform (primAction s.regs p) s).fix.mem = writeWord s.fix.mem s.regs.a (srcAt s.src s.regs.i.toNat)) := by
  have howm : primMasked p = true → s.owm = mBus := fun h => hi.mask (by rw [hq]; exact h)
  cases p with
  | addr p =>
    have hsync := (synced_of_addr hq).mp hs he
    cases p with
    | lo =>
      refine .inl ?_
      rw [addrSynced_beat (by simp)] at hsync
      show (perform (.pin .clk false) s).fix.mem = _
      rw [perform_addr_lo hi he hq]
      refine latchBeat_mem_of_not_last ?_
      obtain hk | ⟨-, hwc, -⟩ := hsync
      · exact .inl (by rw [hk]; rfl)
      · exact .inr (.inr (by rw [hwc]; decide))
    | drv => exact .inl (perform_mem nofun fun _ _ _ => howm rfl)
    | _ => exact .inl (perform_mem nofun nofun)
  | wdata p =>
    have hsync := (synced_of_wdata hq).mp hs he
    cases p with
    | lo =>
      rw [wdataSynced_beat (by simp)] at hsync
      obtain ⟨hab, hw, hwc, hptr, hsh⟩ := hsync
      show (perform (.pin .clk false) s).fix.mem = _ ∨ _ ∧ (perform (.pin .clk false) s).fix.mem = _
      rw [perform_wdata_lo hi he hq]
      by_cases hlast : s.fix.wcnt = 3
      · have hk3 : s.regs.k.toNat = 3 := by rw [← hwc, hlast]; rfl
        rw [hk3] at hsh ⊢
        have hword : putByte s.fix.sh 3 (muxByte s.regs.w 3) = s.regs.w :=
          eq_of_lowBytesEq (k := 4) (by decide) (lowBytesEq_putByte (by decide) hsh)
        refine .inr ⟨rfl, ?_⟩
        rw [latchBeat_of_lastData hab hlast, hword, hptr, hw]
      · exact .inl (latchBeat_mem_of_not_last (.inr (.inr hlast)))
    | drv => exact .inl (perform_mem nofun fun _ _ _ => howm rfl)
    | _ => exact .inl (perform_mem nofun nofun)
  | rdata p =>
    have hpins := hi.rdataPinsOk_run hq
    cases p with
    | lo =>
      simp only [rdataPinsOk, Bool.and_eq_true, Bool.not_eq_true'] at hpins
      obtain ⟨-, ⟨-, hn⟩, -⟩ := hpins
      exact .inl (perform_mem (fun _ => .inr hn) nofun)
    | _ => exact .inl (perform_mem nofun nofun)
  | rfin p =>
    obtain ⟨-, hpins⟩ := hi.placeOk_run hq
    cases p with
    | clk =>
      have hlow : s.pins.clk = false ∨ s.pins.nRD = false := by
        simp only [primOk, rfinPinsOk, modeOk, Bool.and_eq_true, beq_iff_eq] at hpins
        obtain ⟨-, ⟨-, hmode⟩, hclk⟩ := hpins
        cases hr : s.readRun <;> simp_all
      exact .inl (perform_mem (fun _ => hlow) nofun)
    | _ => exact .inl (perform_mem nofun nofun)

/-- The word that RDATA has when it returns is the one in memory at A (R82). -/
theorem rdata_word {b : BlockPos} (hi : Inv s) (hs : Synced s) (he : s.env = .fixture) (hq : s.seq = .run b (.rdata .smp))
    (hk : 3 ≤ s.regs.k.toNat) : (perform .sampleData s).regs.w = readWord s.fix.mem s.regs.a := by
  have hpins := hi.rdataPinsOk_run hq
  simp only [rdataPinsOk, Bool.and_eq_true, decide_eq_true_eq, beq_iff_eq] at hpins
  obtain ⟨-, ⟨⟨⟨hle, -⟩, -⟩, hdir⟩, -⟩ := hpins
  obtain ⟨hdrive, hbytes, -⟩ := rdataSynced_smp.mp ((synced_of_rdata hq).mp hs he)
  have hk3 : s.regs.k.toNat = 3 := Nat.le_antisymm hle hk
  rw [perform_sampleData_of_drive he hdir hdrive]
  rw [hk3] at hbytes ⊢
  exact eq_of_lowBytesEq (k := 4) (by decide) (lowBytesEq_putByte (by decide) hbytes)

theorem blockOk_of_sameTransfer (h : SameTransfer s t) (b : BlockPos) (p : PrimPos) :
    blockOk b p t.regs = blockOk b p s.regs := by
  unfold blockOk
  rw [h.op, h.a, h.i, h.n]

/-- Going on from `u`, which the position's action has led to from `s` with no change to the transfer. -/
theorem primAfter_transferStep {b : BlockPos} {p : PrimPos} (hb : blockOk b p s.regs = true) (h : SameTransfer s u)
    (hmem : u.fix.mem = s.fix.mem)
    (hwrote : ∀ q, p = .wdata q → returnsAt u.regs.k p = true → readWord s.fix.mem s.regs.a = srcAt s.src s.regs.i.toNat)
    (hread : ∀ q, p = .rdata q → returnsAt u.regs.k p = true → u.regs.w = readWord s.fix.mem s.regs.a) :
    TransferStep s (primAfter b p u) := by
  cases hr : returnsAt u.regs.k p with
  | false =>
    rw [primAfter_of_not_returnsAt b u hr]
    exact .same (h.trans (stayInCall_sameTransfer b p u)) hmem
  | true =>
    have hv : SameTransfer s { u with readRun := readRunAfter u.readRun p } := h.trans (by constructor <;> rfl)
    rw [← blockOk_of_sameTransfer hv] at hb
    rw [primAfter_of_returnsAt b u hr]
    refine .of_same hv hmem (afterCall_transferStep hb ?_ ?_)
    · intro q hp
      rw [hv.a, hv.src, hv.i]
      exact (congrArg (readWord · s.regs.a) hmem).trans (hwrote q hp hr)
    · intro q hp
      rw [hv.a]
      exact (hread q hp hr).trans (congrArg (readWord · s.regs.a) hmem).symm

/-- What a step of the primitive in flight does to the words in transfer. -/
theorem primStep_transferStep {b : BlockPos} {p : PrimPos} (hi : Inv s) (hs : Synced s) (he : s.env = .fixture)
    (hq : s.seq = .run b p) : TransferStep s (primStep b p s) := by
  obtain ⟨hb, -⟩ := hi.placeOk_run hq
  cases hw : primWait p with
  | none =>
    have hact := perform_sameTransfer (primAction s.regs p) s
    rw [primStep_of_action b s hw]
    obtain hmem | ⟨rfl, hmem⟩ := primAction_mem hi hs he hq
    · refine primAfter_transferStep hb hact hmem ?_ ?_
      · rintro q rfl hr
        cases q with
        | wait => cases hw
        | _ => cases hr
      · rintro q rfl hr
        obtain ⟨rfl, hk⟩ : q = .smp ∧ 3 ≤ s.regs.k.toNat := by
          simpa [returnsAt, perform_k] using hr
        exact rdata_word hi hs he hq hk
    · obtain ⟨-, hop, hmore⟩ := blockOk_wdata hb
      rw [primAfter_of_not_returnsAt (p := .wdata .lo) b _ rfl]
      exact .stored (hact.trans (stayInCall_sameTransfer b _ _)) hop hmore hmem
  | some w =>
    rw [primStep_of_wait b s hw]
    obtain ⟨-, h⟩ | ⟨-, -, h⟩ | ⟨-, -, h⟩ := waitStep_cases w (primAfter b p) s
    · rw [h]
      exact .same (raiseAckTimeout_sameTransfer w s) (by rw [raiseAckTimeout_eq]; split <;> rfl)
    · rw [h]
      refine primAfter_transferStep hb (waitOver_sampleNWait_sameTransfer s) (waitOver_sampleNWait_mem s) ?_ ?_
      · rintro q rfl hr
        obtain rfl : q = .wait := by simpa [returnsAt] using hr
        obtain ⟨-, hword, -, -, hmem⟩ := (wdataSynced_done (by simp)).mp ((synced_of_wdata hq).mp hs he)
        exact hmem.trans hword
      · rintro q rfl hr
        cases hw
    · rw [h]
      obtain ⟨o, d, n, hsample⟩ := sampleNWait_eq s
      exact .same (countPoll_sampleNWait_sameTransfer s) (by rw [hsample, countPoll_eq])

/-! ### The words before I stay in their places (R89, R197) -/

/-- Where word `j` of the command in flight belongs: trunc_40(addr + j). -/
def wordAddress (r : Regs) (j : Nat) : Address := baseAddress r + BitVec.ofNat 40 j

/-- The words before I are in memory for a POKE, in DEST for a PEEK. -/
def WordsInPlace (s : State) : Prop :=
  ∀ j < s.regs.i.toNat,
    (s.regs.op = .poke → readWord s.fix.mem (wordAddress s.regs j) = srcAt s.src j) ∧
    (s.regs.op = .peek → destRead s.dest j = some (readWord s.fix.mem (wordAddress s.regs j)))

theorem transferred_iff : Transferred s ↔ (s.env = .fixture → s.seq ≠ .idle → WordsInPlace s) := by
  unfold Transferred WordsInPlace
  cases s.regs.op <;> simp [wordAddress]

/-- While word I is transferred, A is its address (R192). -/
theorem wordAddress_index (r : Regs) : wordAddress r r.i.toNat = r.a := by
  unfold wordAddress baseAddress
  bv_omega

/-- No earlier word has that address: a command has fewer words than the space. -/
theorem wordAddress_ne {r : Regs} {j : Nat} (h : j < r.i.toNat) : wordAddress r j ≠ r.a := by
  unfold wordAddress baseAddress
  bv_omega

theorem baseAddress_of_same (h : SameTransfer s t) : baseAddress t.regs = baseAddress s.regs := by
  unfold baseAddress
  rw [h.a, h.i]

/-- A and I count on together (R192). -/
theorem baseAddress_of_next (h : NextWord s t) : baseAddress t.regs = baseAddress s.regs := by
  have hmore := h.more
  unfold baseAddress
  rw [h.a, h.i, nextAddress]
  bv_omega

theorem toNat_index_succ (h : NextWord s t) : t.regs.i.toNat = s.regs.i.toNat + 1 := by
  have hmore := h.more
  rw [h.i]
  bv_omega

/-- No step moves a command's base address. -/
theorem TransferStep.baseAddress_eq (h : TransferStep s t) : baseAddress t.regs = baseAddress s.regs := by
  cases h with
  | same h => exact baseAddress_of_same h
  | stored h => exact baseAddress_of_same h
  | poked h => exact baseAddress_of_next h
  | peeked h => exact baseAddress_of_next h

theorem WordsInPlace.transferStep (hwords : WordsInPlace s) (h : TransferStep s t) : WordsInPlace t := by
  have hbase : ∀ j, wordAddress t.regs j = wordAddress s.regs j := fun j => by
    unfold wordAddress
    rw [h.baseAddress_eq]
  intro j hj
  rw [hbase]
  cases h with
  | same h hmem =>
    rw [h.op, hmem, h.src, h.dest]
    exact hwords j (h.i ▸ hj)
  | stored h hop hmore hmem =>
    have hj' : j < s.regs.i.toNat := h.i ▸ hj
    obtain ⟨hpoke, -⟩ := hwords j hj'
    refine ⟨fun _ => ?_, fun hpeek => ?_⟩
    · rw [hmem, readWord_writeWord_other _ _ (wordAddress_ne hj'), h.src]
      exact hpoke hop
    · rw [h.op, hop] at hpeek
      cases hpeek
  | poked h hop hmem hdest hword =>
    rw [toNat_index_succ h] at hj
    refine ⟨fun _ => ?_, fun hpeek => ?_⟩
    · rw [hmem, h.src]
      obtain hlt | rfl := Nat.lt_succ_iff_lt_or_eq.mp hj
      · exact (hwords j hlt).1 hop
      · rw [wordAddress_index]
        exact hword
    · rw [h.op, hop] at hpeek
      cases hpeek
  | peeked h hop hmem hdest =>
    rw [toNat_index_succ h] at hj
    refine ⟨fun hpoke => ?_, fun _ => ?_⟩
    · rw [h.op, hop] at hpoke
      cases hpoke
    · rw [hmem, hdest]
      obtain hlt | rfl := Nat.lt_succ_iff_lt_or_eq.mp hj
      · rw [destRead_destWrite_other _ _ (Nat.ne_of_lt hlt)]
        exact (hwords j hlt).2 hop
      · rw [destRead_destWrite_self, wordAddress_index]

end

/-- No word is in transfer yet. -/
theorem wordsInPlace_of_start {s : State} (h : s.regs.i = 0) : WordsInPlace s := by
  intro j hj
  rw [h] at hj
  exact absurd hj (Nat.not_lt_zero j)

theorem engineStep_keeps_transferred {s t : State} (hi : Inv s) (hs : Synced s) (ht : Transferred s) (h : EngineStep s t) :
    Transferred t := by
  rw [transferred_iff] at ht ⊢
  intro he hseq
  cases h with
  | rest => exact ht he hseq
  | refuse hidle => exact absurd hidle hseq
  | acceptPoke addr n => exact wordsInPlace_of_start (pokeLoop_sameTransfer _).i
  | acceptPeek => exact wordsInPlace_of_start rfl
  | prim b p hrun =>
    rw [primStep_env] at he
    exact (ht he (by rw [hrun]; exact nofun)).transferStep (primStep_transferStep hi hs he hrun)
  | finish => exact absurd rfl hseq

/-- Settles O39: a word is stored, or goes to DEST, before I counts it, and what is written later lies elsewhere. -/
theorem stepKeepsTheTransferredWords : Obligations.StepKeepsTheTransferredWords := by
  intro s t hi hs ht h
  cases machineStep_of_step h with
  | engine ts t he => exact engineStep_keeps_transferred (hi.withTurns ts) hs ht he
  | handlerOwm => exact ht
  | handlerPins => exact ht
  | configure => exact ht

end Sys2Proof.Machine
end

section
/-! SUPPORT. The engine's steps keep the good states (`Inv`): what a position's action leaves, the pin levels from position to
position, and block control's calls. -/

namespace Sys2Proof.Machine

/-! ### What an action makes of the pins, the inhibit flag and the responder's drive -/

/-- The bus latches after an action, OWM holding the bus mask at a masked write (R131 to R133). -/
def actionPins (x : Action) (q : Pins) : Pins :=
  match x with
  | .pin c v => pinsWith c v q
  | .dir d => { q with dir := d }
  | .mwrite b v => { q with dout := b, start := v }
  | _ => q

/-- IRQ_INHIBIT after an action (R30). -/
def actionInhibit (x : Action) (v : Bool) : Bool :=
  match x with
  | .inhibit w => w
  | _ => v

/-- IRQ_INHIBIT once the action of a position is done (R219). -/
def inhibitedAfter : PrimPos → Bool
  | .addr p => p == .ce1 || p == .ce2 || p == .ce3 || p == .drv || p == .hi || p == .lo || p == .cx1
  | .wdata p => p == .ce1 || p == .ce2 || p == .ce3 || p == .drv || p == .hi || p == .lo || p == .cx1
  | .rdata _ => false
  | .rfin _ => false

section
variable {s : State}

theorem perform_pins {x : Action} (hmask : ∀ b v, x = .mwrite b v → s.owm = mBus) :
    (perform x s).pins = actionPins x s.pins := by
  cases x with
  | pin p v => exact setPins_pins _ s
  | dir d => exact setPins_pins _ s
  | mwrite b v => rw [perform, mwrite_of_mBus b v (hmask b v rfl)]; rfl
  | sampleData =>
    obtain ⟨o, d, h⟩ := sampleData_eq s
    simp only [perform, readBeat, h, actionPins]
  | sampleNWait =>
    obtain ⟨o, d, n, h⟩ := sampleNWait_eq s
    simp only [perform, h, actionPins]
  | inhibit v => rfl
  | saveOwm => rfl
  | writeOwmBus => rfl
  | restoreOwm => rfl

theorem perform_irqInhibit (x : Action) (s : State) :
    (perform x s).irqInhibit = actionInhibit x s.irqInhibit := by
  cases x with
  | pin p v => exact setPins_irqInhibit _ s
  | dir d => exact setPins_irqInhibit _ s
  | mwrite b v => exact setPins_irqInhibit _ _
  | sampleData =>
    obtain ⟨o, d, h⟩ := sampleData_eq s
    simp only [perform, readBeat, h, actionInhibit]
  | sampleNWait =>
    obtain ⟨o, d, n, h⟩ := sampleNWait_eq s
    simp only [perform, h, actionInhibit]
  | inhibit v => rfl
  | saveOwm => rfl
  | writeOwmBus => rfl
  | restoreOwm => rfl

theorem perform_readRun (x : Action) (s : State) : (perform x s).readRun = s.readRun := by
  obtain ⟨q, v, m, m', i, w, o, f, d, h⟩ := perform_eq x s
  rw [h]

/-- Of the working registers an action can write W alone. -/
theorem perform_regs_eq (x : Action) (s : State) :
    (perform x s).regs = { s.regs with w := (perform x s).regs.w } := by
  obtain ⟨q, v, m, m', i, w, o, f, d, h⟩ := perform_eq x s
  rw [h]

/-- Only a data sample writes W (R136). -/
theorem perform_w {x : Action} (s : State) (hx : x ≠ .sampleData) : (perform x s).regs.w = s.regs.w := by
  cases x with
  | pin p v => exact congrArg Regs.w (setPins_regs _ s)
  | dir d => exact congrArg Regs.w (setPins_regs _ s)
  | mwrite b v => exact congrArg Regs.w (setPins_regs _ _)
  | sampleData => exact absurd rfl hx
  | sampleNWait =>
    obtain ⟨o, d, n, h⟩ := sampleNWait_eq s
    simp only [perform, h]
  | inhibit v => rfl
  | saveOwm => rfl
  | writeOwmBus => rfl
  | restoreOwm => rfl

theorem latchBeat_drive (st : Bool) (d : Byte) (f : Fixture) : (latchBeat st d f).drive = f.drive := by
  unfold latchBeat
  split
  · rfl
  · split
    · rfl
    · simp only []
      split <;> rfl

theorem latchWires_drive (s : State) : (latchWires s).fix.drive = s.fix.drive := by
  unfold latchWires
  split <;> exact latchBeat_drive _ _ _

/-- After a rise of nRD, or with it high all along, the responder is silent (R84, R87). -/
theorem turnBus_up_drive {v : Bool} {f : Fixture} (h : v = true → f.drive = none) : (turnBus v true f).drive = none := by
  cases v with
  | true => exact h rfl
  | false => rfl

/-- At nRD = 1 the reference responder does not drive DATA (R84, R87). -/
def SilentInWriteMode (s : State) : Prop := s.env = .fixture → s.pins.nRD = true → s.fix.drive = none

theorem silentInWriteMode_setPins (p : Pins) (h : SilentInWriteMode s) : SilentInWriteMode (setPins p s) := by
  intro he hn
  rw [setPins_env] at he
  rw [setPins_pins] at hn
  have hturn : (turnBus s.pins.nRD true s.fix).drive = none := turnBus_up_drive (h he)
  simp only [setPins, watch, he, hn]
  split
  · rw [latchWires_drive]
    exact hturn
  · simpa using hturn

theorem silentInWriteMode_perform (x : Action) (h : SilentInWriteMode s) : SilentInWriteMode (perform x s) := by
  cases x with
  | pin p v => exact silentInWriteMode_setPins _ h
  | dir d => exact silentInWriteMode_setPins _ h
  | mwrite b v => exact silentInWriteMode_setPins (s := { s with otherPins := maskedOthers s.owm s.otherPins }) _ h
  | sampleData =>
    obtain ⟨o, d, e⟩ := sampleData_eq s
    unfold SilentInWriteMode at h ⊢
    simpa only [perform, readBeat, e] using h
  | sampleNWait =>
    obtain ⟨o, d, n, e⟩ := sampleNWait_eq s
    unfold SilentInWriteMode at h ⊢
    simpa only [perform, e] using h
  | inhibit v => exact h
  | saveOwm => exact h
  | writeOwmBus => exact h
  | restoreOwm => exact h

end

/-! ### What holds when the action of a position is done -/

/-- What the action of the position `p`, or the answer that ends its wait, makes of a good state `s`. -/
structure PastAction (p : PrimPos) (s u : State) : Prop where
  frame : PrimFrame s u
  same : SameTransfer s u
  regs : u.regs = { s.regs with w := u.regs.w }
  w : (∀ q, p ≠ .rdata q) → u.regs.w = s.regs.w
  readRun : u.readRun = s.readRun
  pins : u.pins = actionPins (primAction s.regs p) s.pins
  memory : Memory.wf u.fix.mem = true
  silent : SilentInWriteMode u
  inhibit : u.irqInhibit = inhibitedAfter p
  mask : maskedAfter p = true → u.owm = mBus
  save : p = .addr .ce2 ∨ p = .wdata .ce2 → u.owmSaved = u.owm

/-- A position's action turns the flag of this position into that of the next (R219). -/
theorem actionInhibit_primAction (r : Regs) (p : PrimPos) :
    actionInhibit (primAction r p) (primInhibited p) = inhibitedAfter p := by
  cases p with
  | addr p => cases p <;> rfl
  | wdata p => cases p <;> rfl
  | rdata p => cases p <;> rfl
  | rfin p => cases p <;> rfl

/-- A masked write stands in the critical section (R133, R219). -/
theorem primMasked_of_mwrite {r : Regs} {p : PrimPos} {b : Byte} {v : Bool} (h : primAction r p = .mwrite b v) :
    primMasked p = true := by
  cases p with
  | addr p =>
    cases p with
    | drv => rfl
    | _ => cases h
  | wdata p =>
    cases p with
    | drv => rfl
    | _ => cases h
  | rdata p => cases p <;> cases h
  | rfin p => cases p <;> cases h

theorem primAction_ne_sampleData {r : Regs} {p : PrimPos} (h : ∀ q, p ≠ .rdata q) : primAction r p ≠ .sampleData := by
  cases p with
  | addr p => cases p <;> exact nofun
  | wdata p => cases p <;> exact nofun
  | rdata p => exact absurd rfl (h p)
  | rfin p => cases p <;> exact nofun

section
variable {s u : State} {b : BlockPos} {p : PrimPos}

theorem Inv.owm_of_run (hi : Inv s) (hq : s.seq = .run b p) (hm : primMasked p = true) : s.owm = mBus :=
  hi.mask (by rw [hq]; exact hm)

theorem Inv.inhibit_of_run (hi : Inv s) (hq : s.seq = .run b p) : s.irqInhibit = primInhibited p := by
  rw [hi.inhibit, hq]
  rfl

/-- OWM holds the bus mask wherever the next position needs it (R137). -/
theorem perform_mask (hi : Inv s) (hq : s.seq = .run b p) (hm : maskedAfter p = true) :
    (perform (primAction s.regs p) s).owm = mBus := by
  obtain ⟨hsave, -, hrestore, hother⟩ := mask_writes s.regs p
  by_cases h2 : primAction s.regs p = .writeOwmBus
  · rw [h2]
    rfl
  · have h1 : primAction s.regs p ≠ .saveOwm := fun h => by rw [(hsave h).2] at hm; cases hm
    have h3 : primAction s.regs p ≠ .restoreOwm := fun h => by rw [(hrestore h).2] at hm; cases hm
    rw [(perform_keeps_masks s h1 h2 h3).1]
    exact hi.owm_of_run hq ((hother h2 h3).trans hm)

theorem pastAction_perform (hi : Inv s) (hq : s.seq = .run b p) : PastAction p s (perform (primAction s.regs p) s) where
  frame := perform_frame _ s
  same := perform_sameTransfer _ s
  regs := perform_regs_eq _ s
  w h := perform_w s (primAction_ne_sampleData h)
  readRun := perform_readRun _ s
  pins := perform_pins fun _ _ h => hi.owm_of_run hq (primMasked_of_mwrite h)
  memory := perform_wf _ hi.memory
  silent := silentInWriteMode_perform _ hi.drive
  inhibit := by rw [perform_irqInhibit, hi.inhibit_of_run hq, actionInhibit_primAction]
  mask := perform_mask hi hq
  save h := by obtain rfl | rfl := h <;> rfl

/-- A wait's position samples nWAIT, outside every critical section. -/
theorem wait_action {w : WaitKind} (r : Regs) (hw : primWait p = some w) :
    primAction r p = .sampleNWait ∧ primInhibited p = false ∧ inhibitedAfter p = false ∧ maskedAfter p = false := by
  cases p with
  | addr p => cases p <;> simp_all +decide [primWait, primAction, addrAction]
  | wdata p => cases p <;> simp_all +decide [primWait, primAction, wdataAction]
  | rdata p => cases hw
  | rfin p => cases p <;> simp_all +decide [primWait, primAction, rfinAction]

theorem pastAction_wait {w : WaitKind} (hi : Inv s) (hq : s.seq = .run b p) (hw : primWait p = some w) :
    PastAction p s (waitOver (sampleNWait s).2) := by
  obtain ⟨haction, hbefore, hafter, hmask⟩ := wait_action s.regs hw
  have hinhibit := hi.inhibit_of_run hq
  obtain ⟨o, d, m, n, h⟩ := waitOver_sampleNWait_eq s
  rw [h]
  exact
    { frame := by constructor <;> rfl
      same := by constructor <;> rfl
      regs := rfl
      w := fun _ => rfl
      readRun := rfl
      pins := by rw [haction]; rfl
      memory := hi.memory
      silent := hi.drive
      inhibit := by rw [hafter, ← hbefore]; exact hinhibit
      mask := fun hm => by rw [hmask] at hm; cases hm
      save := by rintro (rfl | rfl) <;> cases hw }

end

/-! ### The pin levels from position to position (R162, R166, R170, R174) -/

section
variable {r : Regs} {q : Pins}

theorem addrPinsOk_next {p : AddrPos} (h : addrPinsOk p r q = true) (hp : p ≠ .cx2) (polls : Nat) :
    addrPinsOk (addrNext r.k p) { r with k := nextK r.k (.addr p), polls := polls }
      (actionPins (addrAction r.a r.k p) q) = true := by
  cases p with
  | lo =>
    simp only [addrPinsOk, Bool.and_eq_true, decide_eq_true_eq, beq_iff_eq] at h
    obtain ⟨⟨⟨⟨⟨hk, hn⟩, hdir⟩, hstart⟩, hdout⟩, -⟩ := h
    have hfirst : (r.k == 0) = decide (r.k.toNat = 0) := by
      rw [Bool.eq_iff_iff, beq_iff_eq, decide_eq_true_eq, ← BitVec.toNat_inj]
      rfl
    rw [hfirst] at hstart
    by_cases hlt : r.k.toNat < 4
    · simp [addrNext, nextK, hlt, addrPinsOk, actionPins, addrAction, pinsWith, hn, hdir, hstart]
      omega
    · have hk4 : r.k.toNat = 4 := by omega
      simp [addrNext, addrPinsOk, actionPins, addrAction, pinsWith, hn, hdir, hstart, hdout, hk4]
  | cx2 => exact absurd rfl hp
  | _ => simp_all [addrNext, nextK, addrPinsOk, actionPins, addrAction, pinsWith]

theorem wdataPinsOk_next {p : WdataPos} (h : wdataPinsOk p r q = true) (hp : p ≠ .wait) (polls : Nat) :
    wdataPinsOk (wdataNext r.k p) { r with k := nextK r.k (.wdata p), polls := polls }
      (actionPins (wdataAction r.w r.k p) q) = true := by
  cases p with
  | lo =>
    simp only [wdataPinsOk, Bool.and_eq_true, decide_eq_true_eq, beq_iff_eq, Bool.not_eq_true'] at h
    obtain ⟨⟨⟨hn, hdir⟩, hstart⟩, ⟨hk, hdout⟩, -⟩ := h
    by_cases hlt : r.k.toNat < 3
    · simp [wdataNext, nextK, hlt, wdataPinsOk, actionPins, wdataAction, pinsWith, hn, hdir, hstart]
      omega
    · have hk3 : r.k.toNat = 3 := by omega
      simp [wdataNext, wdataPinsOk, actionPins, wdataAction, pinsWith, hn, hdir, hstart, hdout, hk3]
  | wait => exact absurd rfl hp
  | _ => simp_all [wdataNext, nextK, wdataPinsOk, actionPins, wdataAction, pinsWith]

theorem rdataPinsOk_next {p : RdataPos} {readRun : Bool} (h : rdataPinsOk p readRun r q = true)
    (hp : p = .smp → r.k.toNat < 3) (w : Word) (polls : Nat) :
    rdataPinsOk (rdataNext p) (PrimPos.rdata p == .rdata .dir || readRun)
      { r with w := w, k := nextK r.k (.rdata p), polls := polls } (actionPins (rdataAction p) q) = true := by
  cases p with
  | smp =>
    have hlt := hp rfl
    simp only [rdataPinsOk, Bool.and_eq_true, decide_eq_true_eq, beq_iff_eq, Bool.not_eq_true'] at h
    obtain ⟨hstart, ⟨⟨⟨-, hrun⟩, hn⟩, hdir⟩, -⟩ := h
    simp [rdataNext, nextK, rdataPinsOk, actionPins, rdataAction, hstart, hrun, hn, hdir]
    omega
  | _ => simp_all [rdataNext, nextK, rdataPinsOk, actionPins, rdataAction, pinsWith]

theorem rfinPinsOk_next {p : RfinPos} {readRun clkLow : Bool} (h : rfinPinsOk p readRun clkLow r q = true)
    (hp : p ≠ .wait) (polls : Nat) :
    rfinPinsOk (rfinNext p) readRun clkLow { r with polls := polls } (actionPins (rfinAction p) q) = true := by
  cases p with
  | clk =>
    simp only [rfinPinsOk, Bool.and_eq_true, beq_iff_eq, Bool.not_eq_true'] at h
    obtain ⟨⟨hstart, hrun⟩, ⟨hlow, hmode⟩, -⟩ := h
    simp only [rfinPinsOk, rfinNext, Bool.and_eq_true, beq_iff_eq, Bool.not_eq_true']
    exact ⟨⟨hstart, hrun⟩, hmode, by simp [actionPins, rfinAction, pinsWith, hlow]⟩
  | wait => exact absurd rfl hp
  | _ => simp_all [rfinNext, rfinPinsOk, actionPins, rfinAction, pinsWith]

end

/-! ### Block control's calls (R176, R190, R191, R193) -/

/-- The levels between two primitives: the mode that R37 (c) says, START = 0, and CLK low unless words are being read (R176). -/
def callPinsOk (s : State) : Bool := modeOk s.readRun s.pins && !s.pins.start && s.pins.clk == s.readRun

section
variable {s : State}

theorem placeOk_of_run {b : BlockPos} {p : PrimPos} (hq : s.seq = .run b p) (hb : blockOk b p s.regs = true)
    (hp : primOk p s = true) : placeOk s = true := by
  simp only [placeOk, hq, hb, hp, Bool.and_self]

/-- Which position of its primitive the sequencer is at does not matter to the line of the command. -/
theorem blockOk_rfin_congr (b : BlockPos) (p q : RfinPos) (r : Regs) : blockOk b (.rfin p) r = blockOk b (.rfin q) r := by
  cases b <;> cases hop : r.op <;> simp only [blockOk, hop]

theorem blockOk_nextPos (b : BlockPos) (k : BitVec 3) (p : PrimPos) (r : Regs) : blockOk b (nextPos k p) r = blockOk b p r := by
  cases p <;> cases b <;> cases hop : r.op <;> simp only [nextPos, blockOk, hop]

theorem placeOk_callAddr {b : BlockPos} (hb : blockOk b (.addr .nRD) s.regs = true) (hr : s.readRun = false) :
    placeOk (callAddr b s) = true :=
  placeOk_of_run rfl (by cases b <;> exact hb) (by simp [primOk, addrPinsOk, hr])

theorem placeOk_callWdata {b : BlockPos} (w : Word) (hb : blockOk b (.wdata .nRD) s.regs = true) (hr : s.readRun = false)
    (hpins : callPinsOk s = true) : placeOk (callWdata b w s) = true :=
  placeOk_of_run rfl (by cases b <;> exact hb) (by
    simp_all [callPinsOk, primOk, wdataPinsOk, modeOk])

theorem placeOk_callRdata {b : BlockPos} (hb : blockOk b (.rdata .dir) s.regs = true) (hpins : callPinsOk s = true) :
    placeOk (callRdata b s) = true :=
  placeOk_of_run rfl (by cases b <;> exact hb) (by
    simp only [callPinsOk, Bool.and_eq_true] at hpins
    simp [primOk, rdataPinsOk, hpins])

theorem placeOk_callRfin {b : BlockPos} (hb : blockOk b (.rfin .nRD) s.regs = true) (hr : s.readRun = (s.regs.i != 0))
    (hpins : callPinsOk s = true) : placeOk (callRfin b s) = true := by
  refine placeOk_of_run rfl ((blockOk_rfin_congr b _ .nRD s.regs).trans hb) ?_
  simp only [callPinsOk, Bool.and_eq_true] at hpins
  obtain ⟨⟨hmode, hstart⟩, hclk⟩ := hpins
  cases hlow : s.rfinClkLow <;> simp_all [primOk, rfinPinsOk, rfinEntry]

theorem placeOk_toEnd (hr : s.readRun = false) (hn : s.regs.i = s.regs.n) : placeOk (toEnd s) = true := by
  simp [placeOk, hr, hn]

theorem placeOk_pokeLoop (hop : s.regs.op = .poke) (hle : s.regs.i ≤ s.regs.n) (hr : s.readRun = false)
    (hpins : s.regs.i ≠ 0 → callPinsOk s = true) : placeOk (pokeLoop s) = true := by
  unfold pokeLoop
  split
  · next hlt =>
    split
    · next hfirst => exact placeOk_callAddr (by simp only [blockOk, hop, hlt, hfirst, decide_true, Bool.and_self]) hr
    · next hfirst =>
      have hi : s.regs.i ≠ 0 := fun e => hfirst (by simp [e])
      exact placeOk_callWdata _ (by simp [blockOk, hop, hlt]) hr (hpins hi)
  · next hge => exact placeOk_toEnd hr (BitVec.le_antisymm hle (BitVec.not_lt.mp hge))

theorem placeOk_peekLoop (hop : s.regs.op = .peek) (hle : s.regs.i ≤ s.regs.n) (hr : s.readRun = (s.regs.i != 0))
    (hpins : callPinsOk s = true) : placeOk (peekLoop s) = true := by
  unfold peekLoop
  split
  · next hlt =>
    split
    · next hpage => exact placeOk_callRfin (by simp_all [blockOk]) hr hpins
    · next hpage => exact placeOk_callRdata (by simp [blockOk, hop, hlt]) hpins
  · next hge =>
    have hn : s.regs.i = s.regs.n := BitVec.le_antisymm hle (BitVec.not_lt.mp hge)
    exact placeOk_callRfin (by simp [blockOk, hop, hn]) hr hpins

/-- After an address phase, at any of the three lines that make one. -/
theorem placeOk_afterCall_addr {b : BlockPos} {p : AddrPos} (hb : blockOk b (.addr p) s.regs = true) (hr : s.readRun = false)
    (hpins : callPinsOk s = true) : placeOk (afterCall b s) = true := by
  cases b with
  | head =>
    cases hop : s.regs.op with
    | poke =>
      simp only [blockOk, hop, Bool.and_eq_true] at hb
      simp only [afterCall, hop]
      exact placeOk_callWdata _ (by simpa only [blockOk, hop] using hb.1) hr hpins
    | peek =>
      have hi : s.regs.i = 0 := by simpa [blockOk, hop] using hb
      simp only [afterCall, hop]
      exact placeOk_peekLoop hop (by rw [hi]; bv_omega) (by rw [hr, hi]; rfl) hpins
  | resend =>
    refine placeOk_callRdata ?_ hpins
    cases hop : s.regs.op <;> simp_all [blockOk]
  | close => simp [blockOk] at hb
  | xfer => simp [blockOk] at hb
  | last => simp [blockOk] at hb

/-- After a word written. -/
theorem placeOk_afterCall_wdata {b : BlockPos} {p : WdataPos} (hb : blockOk b (.wdata p) s.regs = true) (hr : s.readRun = false)
    (hpins : callPinsOk s = true) : placeOk (afterCall b s) = true := by
  obtain ⟨rfl, hop, hlt⟩ := blockOk_wdata hb
  rw [afterCall_xfer_of_poke hop]
  exact placeOk_pokeLoop hop (show s.regs.i + 1 ≤ s.regs.n by bv_omega) hr fun _ => hpins

/-- After a word read. -/
theorem placeOk_afterCall_rdata {b : BlockPos} {p : RdataPos} (hb : blockOk b (.rdata p) s.regs = true) (hr : s.readRun = true)
    (hpins : callPinsOk s = true) : placeOk (afterCall b s) = true := by
  obtain ⟨rfl, hop, hlt⟩ := blockOk_rdata hb
  have hi : s.regs.i + 1 ≠ 0 := by bv_omega
  rw [afterCall_xfer_of_peek hop]
  exact placeOk_peekLoop hop (show s.regs.i + 1 ≤ s.regs.n by bv_omega) (hr.trans (bne_iff_ne.mpr hi).symm) hpins

/-- After a run of reads is closed. -/
theorem placeOk_afterCall_rfin {b : BlockPos} {p : RfinPos} (hb : blockOk b (.rfin p) s.regs = true) (hr : s.readRun = false) :
    placeOk (afterCall b s) = true := by
  cases b with
  | close => exact placeOk_callAddr (by cases hop : s.regs.op <;> simp_all [blockOk]) hr
  | last => exact placeOk_toEnd hr (by cases hop : s.regs.op <;> simp_all [blockOk])
  | head => simp [blockOk] at hb
  | resend => simp [blockOk] at hb
  | xfer => simp [blockOk] at hb

end

/-! ### Where block control leads -/

/-- The first position of a primitive. -/
def isEntry : PrimPos → Bool
  | .addr p => p == .nRD
  | .wdata p => p == .nRD
  | .rdata p => p == .dir
  | .rfin p => p == .clk || p == .nRD

/-- Block control leads to the first position of a primitive, or to the command's end. -/
def LeadsOn (t : State) : Prop := t.seq = .finish ∨ ∃ b p, t.seq = .run b p ∧ isEntry p = true

theorem leadsOn_callRfin (b : BlockPos) (s : State) : LeadsOn (callRfin b s) :=
  .inr ⟨b, _, rfl, by cases h : s.rfinClkLow <;> rfl⟩

theorem leadsOn_pokeLoop (s : State) : LeadsOn (pokeLoop s) := by
  unfold pokeLoop
  split
  · split
    · exact .inr ⟨_, _, rfl, rfl⟩
    · exact .inr ⟨_, _, rfl, rfl⟩
  · exact .inl rfl

theorem leadsOn_peekLoop (s : State) : LeadsOn (peekLoop s) := by
  unfold peekLoop
  split
  · split
    · exact leadsOn_callRfin _ s
    · exact .inr ⟨_, _, rfl, rfl⟩
  · exact leadsOn_callRfin _ s

theorem leadsOn_afterCall (b : BlockPos) (s : State) : LeadsOn (afterCall b s) := by
  cases b with
  | head =>
    cases hop : s.regs.op with
    | poke => simp only [afterCall, hop]; exact .inr ⟨_, _, rfl, rfl⟩
    | peek => simp only [afterCall, hop]; exact leadsOn_peekLoop s
  | close => exact .inr ⟨_, _, rfl, rfl⟩
  | resend => exact .inr ⟨_, _, rfl, rfl⟩
  | xfer =>
    cases hop : s.regs.op with
    | poke => rw [afterCall_xfer_of_poke hop]; exact leadsOn_pokeLoop _
    | peek => rw [afterCall_xfer_of_peek hop]; exact leadsOn_peekLoop _
  | last => exact .inl rfl

/-- At a primitive's first position nothing is pending: no inhibit, no mask, no save pending, no wait (R219, R139). -/
theorem isEntry_outside {b : BlockPos} {p : PrimPos} (h : isEntry p = true) :
    primInhibited p = false ∧ primMasked p = false ∧ isWait (.run b p) = false ∧
      p ≠ .addr .ce3 ∧ p ≠ .wdata .ce3 := by
  cases p with
  | addr p =>
    obtain rfl : p = .nRD := by simpa [isEntry] using h
    exact ⟨rfl, rfl, rfl, nofun, nofun⟩
  | wdata p =>
    obtain rfl : p = .nRD := by simpa [isEntry] using h
    exact ⟨rfl, rfl, rfl, nofun, nofun⟩
  | rdata p => exact ⟨rfl, rfl, rfl, nofun, nofun⟩
  | rfin p =>
    obtain rfl | rfl : p = .clk ∨ p = .nRD := by simpa [isEntry] using h
    · exact ⟨rfl, rfl, rfl, nofun, nofun⟩
    · exact ⟨rfl, rfl, rfl, nofun, nofun⟩

/-! ### One step of a primitive -/

/-- Position by position, what the action leaves of a flag is what the next position asks. -/
theorem nextPos_inhibited {k : BitVec 3} {p : PrimPos} (h : returnsAt k p = false) :
    primInhibited (nextPos k p) = inhibitedAfter p := by
  cases p with
  | addr p =>
    cases p with
    | lo => simp only [nextPos, addrNext]; split <;> rfl
    | cx2 => cases h
    | _ => rfl
  | wdata p =>
    cases p with
    | lo => simp only [nextPos, wdataNext]; split <;> rfl
    | wait => cases h
    | _ => rfl
  | rdata p => rfl
  | rfin p => rfl

theorem inhibitedAfter_of_returnsAt {k : BitVec 3} {p : PrimPos} (h : returnsAt k p = true) : inhibitedAfter p = false := by
  cases p with
  | addr p =>
    obtain rfl : p = .cx2 := by simpa [returnsAt] using h
    rfl
  | wdata p =>
    obtain rfl : p = .wait := by simpa [returnsAt] using h
    rfl
  | rdata p => rfl
  | rfin p => rfl

/-- The bus mask is about to be written after the save alone (R137). -/
theorem nextPos_ce3 {k : BitVec 3} {p : PrimPos} (h : nextPos k p = .addr .ce3 ∨ nextPos k p = .wdata .ce3) :
    p = .addr .ce2 ∨ p = .wdata .ce2 := by
  cases p with
  | addr p =>
    cases p with
    | lo => simp only [nextPos, addrNext] at h; split at h <;> simp at h
    | _ => simp [nextPos, addrNext] at h ⊢
  | wdata p =>
    cases p with
    | lo => simp only [nextPos, wdataNext] at h; split at h <;> simp at h
    | _ => simp [nextPos, wdataNext] at h ⊢
  | rdata p => simp [nextPos] at h
  | rfin p => simp [nextPos] at h

/-- A wait is reached over its head, which clears POLLS (R139). -/
theorem nextPos_wait {b : BlockPos} {k : BitVec 3} {p : PrimPos} (hr : returnsAt k p = false)
    (h : isWait (.run b (nextPos k p)) = true) : entersWait p = true := by
  rw [isWait_run] at h
  cases p with
  | addr p =>
    cases p with
    | dir => rfl
    | lo => simp only [nextPos, addrNext] at h; split at h <;> cases h
    | _ => cases h
  | wdata p =>
    cases p with
    | cx2 => rfl
    | lo => simp only [nextPos, wdataNext] at h; split at h <;> cases h
    | wait => cases hr
    | _ => cases h
  | rdata p => cases h
  | rfin p =>
    cases p with
    | dir => rfl
    | wait => cases hr
    | _ => cases h

theorem saveOk_of_run {s : State} {b : BlockPos} {p : PrimPos} (hq : s.seq = .run b p)
    (h : p = .addr .ce3 ∨ p = .wdata .ce3 → s.owmSaved = s.owm) : saveOk s = true := by
  unfold saveOk
  split
  · next hseq =>
    rw [hq] at hseq
    cases hseq
    exact beq_iff_eq.mpr (h (.inl rfl))
  · next hseq =>
    rw [hq] at hseq
    cases hseq
    exact beq_iff_eq.mpr (h (.inr rfl))
  · rfl

section
variable {s t u : State} {b : BlockPos} {p : PrimPos}

theorem PastAction.k (h : PastAction p s u) : u.regs.k = s.regs.k := by
  rw [h.regs]

theorem PastAction.regs_eq (h : PastAction p s u) (hp : ∀ q, p ≠ .rdata q) : u.regs = s.regs := by
  rw [h.regs, h.w hp]

theorem PastAction.blockOk (hi : Inv s) (hq : s.seq = .run b p) (h : PastAction p s u) : blockOk b p u.regs = true := by
  rw [blockOk_of_sameTransfer h.same]
  exact (hi.placeOk_run hq).1

/-- Inside a call the levels are those of the next position. -/
theorem PastAction.primOk_stay (hi : Inv s) (hq : s.seq = .run b p) (h : PastAction p s u)
    (hr : returnsAt u.regs.k p = false) : primOk (nextPos u.regs.k p) (stayInCall b p u) = true := by
  obtain ⟨-, hp⟩ := hi.placeOk_run hq
  rw [h.k] at hr ⊢
  cases p with
  | addr p =>
    simp only [primOk, Bool.and_eq_true] at hp
    have hnext := addrPinsOk_next hp.2 (fun e => by rw [e] at hr; cases hr)
    simp only [nextPos, primOk, stayInCall, h.regs_eq nofun, h.pins, h.readRun, Bool.and_eq_true]
    exact ⟨hp.1, hnext _⟩
  | wdata p =>
    simp only [primOk, Bool.and_eq_true] at hp
    have hnext := wdataPinsOk_next hp.2 (fun e => by rw [e] at hr; cases hr)
    simp only [nextPos, primOk, stayInCall, h.regs_eq nofun, h.pins, h.readRun, Bool.and_eq_true]
    exact ⟨hp.1, hnext _⟩
  | rdata p =>
    have hlt : p = .smp → s.regs.k.toNat < 3 := by simpa [returnsAt] using hr
    simp only [nextPos, primOk, stayInCall, h.pins, h.readRun]
    rw [h.regs]
    exact rdataPinsOk_next hp hlt _ _
  | rfin p =>
    have hnext := rfinPinsOk_next hp (fun e => by rw [e] at hr; cases hr)
    simp only [nextPos, primOk, stayInCall, h.regs_eq nofun, h.pins, h.readRun, h.frame.rfinClkLow]
    exact hnext _

/-- At a call the levels are those between two primitives. -/
theorem PastAction.placeOk_return (hi : Inv s) (hq : s.seq = .run b p) (h : PastAction p s u)
    (hr : returnsAt u.regs.k p = true) : placeOk (primAfter b p u) = true := by
  obtain ⟨-, hp⟩ := hi.placeOk_run hq
  have hb := h.blockOk hi hq
  have hrun := h.readRun
  have hpins := h.pins
  rw [primAfter_of_returnsAt b u hr]
  rw [h.k] at hr
  cases p with
  | addr p =>
    obtain rfl : p = .cx2 := by simpa [returnsAt] using hr
    simp only [primOk, addrPinsOk, Bool.and_eq_true, beq_iff_eq, Bool.not_eq_true'] at hp
    obtain ⟨hread, ⟨⟨⟨hn, hdir⟩, hstart⟩, hclk⟩, -⟩ := hp
    refine placeOk_afterCall_addr hb (hrun.trans hread) ?_
    simp [callPinsOk, modeOk, readRunAfter, hpins, primAction, addrAction, actionPins, hrun, hread, hn, hdir, hstart, hclk]
  | wdata p =>
    obtain rfl : p = .wait := by simpa [returnsAt] using hr
    simp only [primOk, wdataPinsOk, Bool.and_eq_true, beq_iff_eq, Bool.not_eq_true'] at hp
    obtain ⟨hread, ⟨⟨hn, hdir⟩, hstart⟩, hclk, -⟩ := hp
    refine placeOk_afterCall_wdata hb (hrun.trans hread) ?_
    simp [callPinsOk, modeOk, readRunAfter, hpins, primAction, wdataAction, actionPins, hrun, hread, hn, hdir, hstart, hclk]
  | rdata p =>
    obtain ⟨rfl, -⟩ : p = .smp ∧ 3 ≤ s.regs.k.toNat := by simpa [returnsAt] using hr
    simp only [primOk, rdataPinsOk, Bool.and_eq_true, beq_iff_eq, Bool.not_eq_true'] at hp
    obtain ⟨hstart, ⟨⟨⟨-, hread⟩, hn⟩, hdir⟩, hclk⟩ := hp
    refine placeOk_afterCall_rdata hb (hrun.trans hread) ?_
    simp [callPinsOk, modeOk, readRunAfter, hpins, primAction, rdataAction, actionPins, hrun, hread, hn, hdir, hstart, hclk]
  | rfin p => exact placeOk_afterCall_rfin hb rfl

end

/-! ### DEST stays in rising order (R61) -/

theorem destWf_cons {i : Nat} {w : Word} {d : List (Nat × Word)} :
    destWf ((i, w) :: d) = true ↔ (∀ c ∈ d, i < c.1) ∧ destWf d = true := by
  simp [destWf]

theorem mem_destWrite {d : List (Nat × Word)} {i : Nat} {w : Word} {c : Nat × Word} (h : c ∈ destWrite d i w) :
    c = (i, w) ∨ c ∈ d := by
  induction d with
  | nil => simpa [destWrite] using h
  | cons x r ih =>
    obtain ⟨j, v⟩ := x
    simp only [destWrite] at h
    split at h
    · simpa using h
    · split at h
      · simp only [List.mem_cons] at h ⊢
        tauto
      · simp only [List.mem_cons] at h ⊢
        tauto

theorem destWf_destWrite {d : List (Nat × Word)} (i : Nat) (w : Word) (h : destWf d = true) :
    destWf (destWrite d i w) = true := by
  induction d with
  | nil => rfl
  | cons c r ih =>
    obtain ⟨j, v⟩ := c
    obtain ⟨hlow, hrest⟩ := destWf_cons.mp h
    simp only [destWrite]
    split
    · next hlt =>
      refine destWf_cons.mpr ⟨?_, h⟩
      intro c hc
      obtain rfl | hc := List.mem_cons.mp hc
      · exact hlt
      · exact Nat.lt_trans hlt (hlow c hc)
    · split
      · next heq => exact destWf_cons.mpr ⟨heq ▸ hlow, hrest⟩
      · next hge hne =>
        refine destWf_cons.mpr ⟨?_, ih hrest⟩
        intro c hc
        obtain rfl | hc := mem_destWrite hc
        · show j < i
          omega
        · exact hlow c hc

/-- Block control writes DEST only where it stores a word (R191). -/
theorem afterCall_dest (b : BlockPos) (s : State) :
    (afterCall b s).dest = s.dest ∨ (afterCall b s).dest = destWrite s.dest s.regs.i.toNat s.regs.w := by
  by_cases hb : b = .xfer
  · subst hb
    cases hop : s.regs.op with
    | poke =>
      rw [afterCall_xfer_of_poke hop]
      exact .inl (pokeLoop_sameTransfer _).dest
    | peek =>
      rw [afterCall_xfer_of_peek hop]
      exact .inr (peekLoop_sameTransfer _).dest
  · exact .inl (afterCall_sameTransfer s hb).dest

/-! ### Every step of the engine keeps the good states -/

section
variable {s t u : State} {b : BlockPos} {p : PrimPos}

/-- What `Inv` asks of the flags, the masks and POLLS where block control has led. -/
theorem LeadsOn.seq_facts (h : LeadsOn t) :
    t.seq ≠ .idle ∧ seqInhibited t.seq = false ∧ seqMasked t.seq = false ∧ isWait t.seq = false ∧ saveOk t = true := by
  obtain hq | ⟨b, p, hq, hp⟩ := h
  · rw [hq, saveOk, hq]
    exact ⟨nofun, rfl, rfl, rfl, rfl⟩
  · obtain ⟨hinh, hmask, hwait, h1, h2⟩ := isEntry_outside (b := b) hp
    have hsave : saveOk t = true := saveOk_of_run hq (fun h => by
      obtain h | h := h
      · exact absurd h h1
      · exact absurd h h2)
    rw [hq]
    exact ⟨nofun, hinh, hmask, hwait, hsave⟩

theorem pollsOk_of_not_wait (h : isWait t.seq = false) : pollsOk t = true := by
  unfold pollsOk
  cases t.waitBound <;> simp [h]

/-- BUSY inside a command. -/
theorem Inv.busy_of_run (hi : Inv s) (hq : s.seq = .run b p) : s.busy = true :=
  hi.busy_of_ne_idle (by rw [hq]; exact nofun)

theorem busy_eq_of_ne_idle (hb : t.busy = true) (hq : t.seq ≠ .idle) : t.busy = (t.seq != .idle) := by
  rw [hb]
  exact (bne_iff_ne.mpr hq).symm

/-- Going on inside a call keeps a good state. -/
theorem PastAction.inv_stay (hi : Inv s) (hq : s.seq = .run b p) (h : PastAction p s u) (hr : returnsAt u.regs.k p = false) :
    Inv (stayInCall b p u) where
  memory := h.memory
  dest := by
    show destWf u.dest = true
    rw [h.same.dest]
    exact hi.dest
  bound := by
    show boundOk u.waitBound = true
    rw [h.frame.waitBound]
    exact hi.bound
  busy := busy_eq_of_ne_idle (h.frame.busy.trans (hi.busy_of_run hq)) nofun
  inhibit := h.inhibit.trans (nextPos_inhibited hr).symm
  mask hm := h.mask (by
    rw [← seqMasked_primAfter b p u, primAfter_of_not_returnsAt b u hr]
    exact hm)
  save := saveOk_of_run rfl fun h3 => h.save (nextPos_ce3 h3)
  polls := by
    unfold pollsOk
    cases hb : (stayInCall b p u).waitBound with
    | none => rfl
    | some bound =>
      cases hw : isWait (stayInCall b p u).seq with
      | false => rfl
      | true =>
        have hu : u.waitBound ≠ none := by
          rw [show u.waitBound = some bound from hb]
          exact nofun
        simp [stayInCall, nextPos_wait hr hw, hu]
  drive := h.silent
  place := by
    have hb := h.blockOk hi hq
    rw [← blockOk_of_sameTransfer (stayInCall_sameTransfer b p u)] at hb
    exact placeOk_of_run rfl ((blockOk_nextPos b _ p _).trans hb) (h.primOk_stay hi hq hr)

/-- Where block control has led, a good state is one with the position's levels and nothing pending. -/
theorem inv_of_leadsOn (hlead : LeadsOn t) (hplace : placeOk t = true) (hmem : Memory.wf t.fix.mem = true)
    (hdest : destWf t.dest = true) (hbound : boundOk t.waitBound = true) (hbusy : t.busy = true)
    (hquiet : t.irqInhibit = false) (hsilent : SilentInWriteMode t) : Inv t := by
  obtain ⟨hidle, hinhibit, hmask, hwait, hsave⟩ := hlead.seq_facts
  exact
    { memory := hmem
      dest := hdest
      bound := hbound
      busy := busy_eq_of_ne_idle hbusy hidle
      inhibit := hquiet.trans hinhibit.symm
      mask := fun hm => by rw [hmask] at hm; cases hm
      save := hsave
      polls := pollsOk_of_not_wait hwait
      drive := hsilent
      place := hplace }

/-- Giving way to block control keeps a good state. -/
theorem PastAction.inv_return (hi : Inv s) (hq : s.seq = .run b p) (h : PastAction p s u)
    (hr : returnsAt u.regs.k p = true) : Inv (primAfter b p u) := by
  have hreturn := primAfter_of_returnsAt b u hr
  have hframe := h.frame.trans (primAfter_frame b p u)
  have hdest : destWf (primAfter b p u).dest = true := by
    have hu : destWf u.dest = true := by rw [h.same.dest]; exact hi.dest
    rw [hreturn]
    obtain e | e := afterCall_dest b { u with readRun := readRunAfter u.readRun p } <;> rw [e]
    · exact hu
    · exact destWf_destWrite _ _ hu
  have hquiet : u.irqInhibit = false := h.inhibit.trans (inhibitedAfter_of_returnsAt hr)
  have hmem := h.memory
  have hsilent := h.silent
  refine inv_of_leadsOn (hreturn ▸ leadsOn_afterCall b _) (h.placeOk_return hi hq hr) ?_ hdest
    (hframe.waitBound ▸ hi.bound) (hframe.busy.trans (hi.busy_of_run hq)) ?_ ?_
  all_goals
    obtain ⟨q, r, d, v, e⟩ := controlOnly_primAfter b p u
    rw [e]
    assumption

theorem PastAction.inv_primAfter (hi : Inv s) (hq : s.seq = .run b p) (h : PastAction p s u) : Inv (primAfter b p u) := by
  cases hr : returnsAt u.regs.k p with
  | false =>
    rw [primAfter_of_not_returnsAt b u hr]
    exact h.inv_stay hi hq hr
  | true => exact h.inv_return hi hq hr

/-- A timeout leaves a good state: the wait is outside every critical section (R214, R215). -/
theorem inv_raiseAckTimeout {w : WaitKind} (hi : Inv s) (hq : s.seq = .run b p) (hw : primWait p = some w) :
    Inv (raiseAckTimeout w s) := by
  obtain ⟨-, hinhibit, -, -⟩ := wait_action s.regs hw
  have hfix : (raiseAckTimeout w s).fix.mem = s.fix.mem ∧ (raiseAckTimeout w s).fix.drive = s.fix.drive := by
    rw [raiseAckTimeout_eq]
    split <;> exact ⟨rfl, rfl⟩
  obtain ⟨hmem, hdrive⟩ := hfix
  rw [raiseAckTimeout_eq] at *
  exact
    { memory := by rw [hmem]; exact hi.memory
      dest := hi.dest
      bound := hi.bound
      busy := rfl
      inhibit := (hi.inhibit_of_run hq).trans hinhibit
      mask := nofun
      save := rfl
      polls := pollsOk_of_not_wait rfl
      drive := fun he hn => hdrive.trans (hi.drive he hn)
      place := rfl }

/-- A sample of 0 leaves a good state: the count of polls does not pass the bound (R139). -/
theorem inv_countPoll {w : WaitKind} (hi : Inv s) (hq : s.seq = .run b p) (hw : primWait p = some w)
    (hb : boundReached s = false) : Inv (countPoll (sampleNWait s).2) := by
  have hle := hi.polls
  obtain ⟨hline, hpins⟩ := hi.placeOk_run hq
  rw [← blockOk_of_sameTransfer (countPoll_sampleNWait_sameTransfer s)] at hline
  obtain ⟨o, d, n, hsample⟩ := sampleNWait_eq s
  rw [hsample, countPoll_eq] at hline ⊢
  exact
    { memory := hi.memory
      dest := hi.dest
      bound := hi.bound
      busy := hi.busy
      inhibit := hi.inhibit
      mask := hi.mask
      save := hi.save
      polls := by
        unfold pollsOk boundReached at *
        cases hbound : s.waitBound with
        | none => rfl
        | some bound =>
          have hlt : s.regs.polls ≤ bound ∧ s.regs.polls ≠ bound := by
            simpa [hbound, hq, isWait_run, hw] using And.intro hle hb
          simp [hq, isWait_run, hw]
          omega
      drive := hi.drive
      place := placeOk_of_run hq hline (by
        cases p with
        | addr p => cases p <;> exact hpins
        | wdata p => cases p <;> exact hpins
        | rdata p => cases hw
        | rfin p => cases p <;> exact hpins) }

theorem inv_primStep (hi : Inv s) (hq : s.seq = .run b p) : Inv (primStep b p s) := by
  cases hw : primWait p with
  | none =>
    rw [primStep_of_action b s hw]
    exact (pastAction_perform hi hq).inv_primAfter hi hq
  | some w =>
    rw [primStep_of_wait b s hw]
    obtain ⟨-, h⟩ | ⟨-, -, h⟩ | ⟨hb, -, h⟩ := waitStep_cases w (primAfter b p) s
    · rw [h]
      exact inv_raiseAckTimeout hi hq hw
    · rw [h]
      exact (pastAction_wait hi hq hw).inv_primAfter hi hq
    · rw [h]
      exact inv_countPoll hi hq hw hb

theorem Inv.readRun_of_idle (hi : Inv s) (hq : s.seq = .idle) : s.readRun = false := by
  have hplace := hi.place
  simpa [placeOk, hq] using hplace

/-- Every step of the engine leads from a good state to a good state. -/
theorem engineStep_keeps_inv (hi : Inv s) (h : EngineStep s t) : Inv t := by
  cases h with
  | rest => exact hi
  | refuse hseq => exact
    { memory := hi.memory
      dest := hi.dest
      bound := hi.bound
      busy := hi.busy
      inhibit := hi.inhibit
      mask := hi.mask
      save := hi.save
      polls := hi.polls
      drive := hi.drive
      place := hi.place }
  | acceptPoke addr n hseq =>
    have hr := hi.readRun_of_idle hseq
    have hquiet : s.irqInhibit = false := by rw [hi.inhibit, hseq]; rfl
    have hplace := placeOk_pokeLoop (s := accept .poke addr n s) rfl (show (0 : Count) ≤ n by bv_omega) hr
      (fun h => absurd rfl h)
    have hlead := leadsOn_pokeLoop (accept .poke addr n s)
    obtain ⟨q, w, k, e⟩ := pokeLoop_eq (accept .poke addr n s)
    rw [e] at hplace hlead ⊢
    exact inv_of_leadsOn hlead hplace hi.memory hi.dest hi.bound rfl hquiet hi.drive
  | acceptPeek addr n hseq =>
    have hr := hi.readRun_of_idle hseq
    have hquiet : s.irqInhibit = false := by rw [hi.inhibit, hseq]; rfl
    exact inv_of_leadsOn (.inr ⟨_, _, rfl, rfl⟩) (placeOk_callAddr rfl hr) hi.memory hi.dest hi.bound rfl hquiet hi.drive
  | prim b p hseq => exact inv_primStep hi hseq
  | finish hseq =>
    have hquiet : s.irqInhibit = false := by rw [hi.inhibit, hseq]; rfl
    have hr : s.readRun = false := by
      have hplace := hi.place
      simp only [placeOk, hseq, Bool.and_eq_true, Bool.not_eq_true'] at hplace
      exact hplace.1
    exact
      { memory := hi.memory
        dest := hi.dest
        bound := hi.bound
        busy := rfl
        inhibit := hquiet
        mask := nofun
        save := rfl
        polls := pollsOk_of_not_wait rfl
        drive := hi.drive
        place := by simp [placeOk, hr] }

end

end Sys2Proof.Machine
end

section
/-! SUPPORT. A whole command on the always-ready responder: how many steps it has left, what it leaves alone, and O53 and O54. -/

namespace Sys2Proof.Machine

/-! ### How many steps are left (R194) -/

/-- Steps of ADDR from a position on, its own among them, in beat `k`. -/
def addrStepsLeft (k : Nat) : AddrPos → Nat
  | .nRD => 24
  | .start => 23
  | .dir => 22
  | .wait => 21
  | .ce1 => 20
  | .ce2 => 19
  | .ce3 => 18
  | .drv => 3 * (4 - k) + 5
  | .hi => 3 * (4 - k) + 4
  | .lo => 3 * (4 - k) + 3
  | .cx1 => 2
  | .cx2 => 1

/-- Steps of WDATA from a position on. -/
def wdataStepsLeft (k : Nat) : WdataPos → Nat
  | .nRD => 21
  | .start => 20
  | .dir => 19
  | .ce1 => 18
  | .ce2 => 17
  | .ce3 => 16
  | .drv => 3 * (3 - k) + 6
  | .hi => 3 * (3 - k) + 5
  | .lo => 3 * (3 - k) + 4
  | .cx1 => 3
  | .cx2 => 2
  | .wait => 1

/-- Steps of RDATA from a position on. -/
def rdataStepsLeft (k : Nat) : RdataPos → Nat
  | .dir => 14
  | .nRD => 13
  | .lo => 3 * (3 - k) + 3
  | .hi => 3 * (3 - k) + 2
  | .smp => 3 * (3 - k) + 1

/-- Steps of RFIN from a position on. -/
def rfinStepsLeft : RfinPos → Nat
  | .clk => 4
  | .nRD => 3
  | .dir => 2
  | .wait => 1

/-- Steps until the primitive returns, every wait sampling 1 at once. -/
def primStepsLeft (k : BitVec 3) : PrimPos → Nat
  | .addr p => addrStepsLeft k.toNat p
  | .wdata p => wdataStepsLeft k.toNat p
  | .rdata p => rdataStepsLeft k.toNat p
  | .rfin p => rfinStepsLeft p

/-- How many of the `m` addresses after `a` begin a page. -/
def pagesBegun (a : Address) (m : Nat) : Nat := (a.toNat % 256 + m) / 256

/-- Steps of a Read-Finish (R174). -/
def rfinSteps (clkLow : Bool) : Nat := if clkLow then 4 else 3

/-- Steps of a word's own primitive (R166, R170). -/
def wordSteps : Op → Nat
  | .poke => 21
  | .peek => 14

/-- Steps more for a word that begins a page: an address phase, after a Read-Finish for PEEK (R193). -/
def pageSteps (clkLow : Bool) : Op → Nat
  | .poke => 24
  | .peek => rfinSteps clkLow + 24

/-- Steps after the last word: PEEK's final Read-Finish (R191). -/
def closingSteps (clkLow : Bool) : Op → Nat
  | .poke => 0
  | .peek => rfinSteps clkLow

/-- Steps from the end of word I to the command's end, `m` words being left. -/
def stepsAfterWord (clkLow : Bool) (r : Regs) : Nat :=
  let m := r.n.toNat - r.i.toNat - 1
  wordSteps r.op * m + pageSteps clkLow r.op * pagesBegun r.a m + closingSteps clkLow r.op

/-- Steps from the end of the call at a line of the command to the command's end. -/
def stepsAfterCall (clkLow : Bool) (b : BlockPos) (r : Regs) : Nat :=
  match b with
  | .head =>
    match r.op with
    | .poke => 21 + stepsAfterWord clkLow r
    | .peek => if r.i < r.n then 14 + stepsAfterWord clkLow r else rfinSteps clkLow
  | .close => 24 + (14 + stepsAfterWord clkLow r)
  | .resend => 14 + stepsAfterWord clkLow r
  | .xfer => stepsAfterWord clkLow r
  | .last => 0

/-- Steps until the sequencer is at the command's `end:` line. -/
def stepsToEnd (s : State) : Nat :=
  match s.seq with
  | .idle => 0
  | .run b p => primStepsLeft s.regs.k p + stepsAfterCall s.rfinClkLow b s.regs
  | .finish => 0

section
variable {s t u : State} {b : BlockPos} {p : PrimPos}

theorem stepsToEnd_run (hq : s.seq = .run b p) :
    stepsToEnd s = primStepsLeft s.regs.k p + stepsAfterCall s.rfinClkLow b s.regs := by
  simp only [stepsToEnd, hq]

theorem primStepsLeft_pos (k : BitVec 3) (p : PrimPos) : 0 < primStepsLeft k p := by
  cases p with
  | addr p => cases p <;> simp [primStepsLeft, addrStepsLeft]
  | wdata p => cases p <;> simp [primStepsLeft, wdataStepsLeft]
  | rdata p => cases p <;> simp [primStepsLeft, rdataStepsLeft]
  | rfin p => cases p <;> simp [primStepsLeft, rfinStepsLeft]

theorem primStepsLeft_of_returnsAt {k : BitVec 3} (h : returnsAt k p = true) : primStepsLeft k p = 1 := by
  cases p with
  | addr p =>
    obtain rfl : p = .cx2 := by simpa [returnsAt] using h
    rfl
  | wdata p =>
    obtain rfl : p = .wait := by simpa [returnsAt] using h
    rfl
  | rdata p =>
    obtain ⟨rfl, hk⟩ : p = .smp ∧ 3 ≤ k.toNat := by simpa [returnsAt] using h
    simp only [primStepsLeft, rdataStepsLeft]
    omega
  | rfin p =>
    obtain rfl : p = .wait := by simpa [returnsAt] using h
    rfl

/-- Inside a call each step is one less; a good state's K is 0 where the beats begin. -/
theorem primStepsLeft_nextPos (hp : primOk p s = true) (hr : returnsAt s.regs.k p = false) :
    primStepsLeft (nextK s.regs.k p) (nextPos s.regs.k p) + 1 = primStepsLeft s.regs.k p := by
  cases p with
  | addr p =>
    simp only [primOk, Bool.and_eq_true] at hp
    obtain ⟨-, hp⟩ := hp
    cases p with
    | ce3 =>
      have hk : s.regs.k = 0 := by simp_all [addrPinsOk]
      simp [primStepsLeft, nextPos, addrNext, nextK, addrStepsLeft, hk]
    | lo =>
      have hk : s.regs.k.toNat ≤ 4 := by simp_all [addrPinsOk]
      by_cases hlt : s.regs.k.toNat < 4
      · have hk1 : (s.regs.k + 1).toNat = s.regs.k.toNat + 1 := toNat_beat_succ (by omega)
        simp only [primStepsLeft, nextPos, addrNext, nextK, addrStepsLeft, if_pos hlt, hk1]
        omega
      · simp only [primStepsLeft, nextPos, addrNext, addrStepsLeft, if_neg hlt]
        omega
    | cx2 => cases hr
    | _ => rfl
  | wdata p =>
    simp only [primOk, Bool.and_eq_true] at hp
    obtain ⟨-, hp⟩ := hp
    cases p with
    | ce3 =>
      have hk : s.regs.k = 0 := by simp_all [wdataPinsOk]
      simp [primStepsLeft, nextPos, wdataNext, nextK, wdataStepsLeft, hk]
    | lo =>
      have hk : s.regs.k.toNat ≤ 3 := by simp_all [wdataPinsOk]
      by_cases hlt : s.regs.k.toNat < 3
      · have hk1 : (s.regs.k + 1).toNat = s.regs.k.toNat + 1 := toNat_beat_succ (by omega)
        simp only [primStepsLeft, nextPos, wdataNext, nextK, wdataStepsLeft, if_pos hlt, hk1]
        omega
      · simp only [primStepsLeft, nextPos, wdataNext, wdataStepsLeft, if_neg hlt]
        omega
    | wait => cases hr
    | _ => rfl
  | rdata p =>
    cases p with
    | nRD =>
      have hk : s.regs.k = 0 := by simp_all [primOk, rdataPinsOk]
      simp [primStepsLeft, nextPos, rdataNext, nextK, rdataStepsLeft, hk]
    | smp =>
      have hlt : s.regs.k.toNat < 3 := by simpa [returnsAt] using hr
      have hk1 : (s.regs.k + 1).toNat = s.regs.k.toNat + 1 := toNat_beat_succ (by omega)
      simp only [primStepsLeft, nextPos, rdataNext, nextK, rdataStepsLeft, hk1]
      omega
    | _ => rfl
  | rfin p =>
    cases p with
    | wait => cases hr
    | _ => rfl

/-! ### Block control, counted -/

theorem stepsAfterCall_of_sameTransfer (h : SameTransfer s t) (c : Bool) (b : BlockPos) :
    stepsAfterCall c b t.regs = stepsAfterCall c b s.regs := by
  unfold stepsAfterCall stepsAfterWord
  rw [h.op, h.a, h.i, h.n]

theorem pagesBegun_zero (a : Address) : pagesBegun a 0 = 0 := by
  unfold pagesBegun
  omega

/-- Of `m + 1` addresses the first begins a page or does not; past the top of the space they go on at 0 (R196). -/
theorem pagesBegun_succ (a : Address) (m : Nat) :
    pagesBegun a (m + 1) = (if pageStart (nextAddress a) then 1 else 0) + pagesBegun (nextAddress a) m := by
  have ha := a.isLt
  unfold pagesBegun
  simp only [pageStart_iff, toNat_nextAddress]
  split <;> omega

theorem stepsToEnd_callRfin (b : BlockPos) (s : State) :
    stepsToEnd (callRfin b s) = rfinSteps s.rfinClkLow + stepsAfterCall s.rfinClkLow b s.regs := by
  rw [stepsToEnd_run (callRfin_seq b s), callRfin_rfinClkLow, callRfin_regs]
  cases s.rfinClkLow <;> rfl

theorem stepsToEnd_pokeLoop (hop : s.regs.op = .poke) :
    stepsToEnd (pokeLoop s) = if s.regs.i < s.regs.n then
      (if s.regs.i == 0 || pageStart s.regs.a then 24 else 0) + (21 + stepsAfterWord s.rfinClkLow s.regs) else 0 := by
  unfold pokeLoop
  split
  · split
    · rw [stepsToEnd_run (callAddr_seq _ s)]
      simp [stepsAfterCall, hop, primStepsLeft, addrStepsLeft, stepsAfterWord]
    · rw [stepsToEnd_run (callWdata_seq _ _ s)]
      simp [stepsAfterCall, hop, primStepsLeft, wdataStepsLeft, stepsAfterWord]
  · rfl

theorem stepsToEnd_peekLoop (s : State) :
    stepsToEnd (peekLoop s) = if s.regs.i < s.regs.n then
      (if s.regs.i != 0 && pageStart s.regs.a then rfinSteps s.rfinClkLow + 24 else 0) +
        (14 + stepsAfterWord s.rfinClkLow s.regs) else rfinSteps s.rfinClkLow := by
  unfold peekLoop
  split
  · split
    · rw [stepsToEnd_callRfin, stepsAfterCall]
      omega
    · rw [stepsToEnd_run (callRdata_seq _ s)]
      simp [stepsAfterCall, primStepsLeft, rdataStepsLeft, stepsAfterWord]
  · exact stepsToEnd_callRfin _ s

/-- With word I done, what is left is counted by the next word, or there is none. -/
theorem stepsAfterWord_of_more {r : Regs} (c : Bool) (hmore : r.i + 1 < r.n) (hlt : r.i < r.n) :
    stepsAfterWord c r = (if pageStart (nextAddress r.a) then pageSteps c r.op else 0) +
      (wordSteps r.op + stepsAfterWord c { r with a := nextAddress r.a, i := r.i + 1 }) := by
  obtain ⟨m, hm, hm'⟩ : ∃ m, r.n.toNat - r.i.toNat - 1 = m + 1 ∧ r.n.toNat - (r.i + 1).toNat - 1 = m :=
    ⟨r.n.toNat - r.i.toNat - 2, by bv_omega, by bv_omega⟩
  simp only [stepsAfterWord, hm, hm', pagesBegun_succ]
  split <;> ring

theorem stepsAfterWord_of_last {r : Regs} (c : Bool) (hlast : ¬r.i + 1 < r.n) (hlt : r.i < r.n) :
    stepsAfterWord c r = closingSteps c r.op := by
  have hm : r.n.toNat - r.i.toNat - 1 = 0 := by bv_omega
  simp only [stepsAfterWord, hm, pagesBegun_zero, Nat.mul_zero, Nat.zero_add]

/-- Block control leads where as many steps are left as the line says. -/
theorem stepsToEnd_afterCall (hb : blockOk b p s.regs = true) :
    stepsToEnd (afterCall b s) = stepsAfterCall s.rfinClkLow b s.regs := by
  cases b with
  | head =>
    cases hop : s.regs.op with
    | poke =>
      simp only [afterCall, hop, stepsAfterCall]
      rw [stepsToEnd_run (callWdata_seq _ _ s)]
      simp [stepsAfterCall, primStepsLeft, wdataStepsLeft, stepsAfterWord]
    | peek =>
      have hi : s.regs.i = 0 := by cases p <;> simp_all [blockOk]
      simp only [afterCall, hop, stepsAfterCall, stepsToEnd_peekLoop, hi]
      simp
  | close =>
    show stepsToEnd (callAddr .resend s) = _
    rw [stepsToEnd_run (callAddr_seq _ s)]
    simp [stepsAfterCall, primStepsLeft, addrStepsLeft, stepsAfterWord]
  | resend =>
    show stepsToEnd (callRdata .xfer s) = _
    rw [stepsToEnd_run (callRdata_seq _ s)]
    simp [stepsAfterCall, primStepsLeft, rdataStepsLeft, stepsAfterWord]
  | xfer =>
    have hlt : s.regs.i < s.regs.n := by cases p <;> cases hop : s.regs.op <;> simp_all [blockOk]
    have hi : (s.regs.i + 1 == 0) = false := beq_false_of_ne (by bv_omega)
    cases hop : s.regs.op with
    | poke =>
      rw [afterCall_xfer_of_poke hop, stepsToEnd_pokeLoop (s := advanceWord s) hop, stepsAfterCall]
      simp only [advanceWord_regs, advanceWord_rfinClkLow, hi, Bool.false_or]
      by_cases hmore : s.regs.i + 1 < s.regs.n
      · rw [if_pos hmore, stepsAfterWord_of_more _ hmore hlt]
        simp only [hop, pageSteps, wordSteps]
      · rw [if_neg hmore, stepsAfterWord_of_last _ hmore hlt]
        simp only [hop, closingSteps]
    | peek =>
      rw [afterCall_xfer_of_peek hop, stepsToEnd_peekLoop, stepsAfterCall]
      simp only [advanceWord_regs, advanceWord_rfinClkLow, storeDest_regs, storeDest_rfinClkLow, bne, hi, Bool.not_false,
        Bool.true_and]
      by_cases hmore : s.regs.i + 1 < s.regs.n
      · rw [if_pos hmore, stepsAfterWord_of_more _ hmore hlt]
        simp only [hop, pageSteps, wordSteps]
      · rw [if_neg hmore, stepsAfterWord_of_last _ hmore hlt]
        simp only [hop, closingSteps]
  | last => rfl

/-- One step less is left once a position's action is done. -/
theorem stepsToEnd_primAfter (hi : Inv s) (hq : s.seq = .run b p) (h : PastAction p s u) :
    stepsToEnd (primAfter b p u) + 1 = stepsToEnd s := by
  obtain ⟨-, hp⟩ := hi.placeOk_run hq
  rw [stepsToEnd_run hq]
  cases hr : returnsAt u.regs.k p with
  | false =>
    rw [primAfter_of_not_returnsAt b u hr, stepsToEnd_run (s := stayInCall b p u) rfl,
      stepsAfterCall_of_sameTransfer (h.same.trans (stayInCall_sameTransfer b p u))]
    rw [h.k] at hr
    have hprim := primStepsLeft_nextPos hp hr
    have hpos : primStepsLeft (stayInCall b p u).regs.k (nextPos u.regs.k p) + 1 = primStepsLeft s.regs.k p := by
      rw [← hprim, ← h.k]
      rfl
    have hlow : (stayInCall b p u).rfinClkLow = s.rfinClkLow := h.frame.rfinClkLow
    rw [hlow]
    omega
  | true =>
    have hline := h.blockOk hi hq
    rw [primAfter_of_returnsAt b u hr,
      stepsToEnd_afterCall (s := { u with readRun := readRunAfter u.readRun p }) hline]
    show stepsAfterCall u.rfinClkLow b u.regs + 1 = _
    rw [h.k] at hr
    rw [stepsAfterCall_of_sameTransfer h.same, primStepsLeft_of_returnsAt hr, h.frame.rfinClkLow, Nat.add_comm]

/-! ### The always-ready responder (R88) -/

theorem latchBeat_script (st : Bool) (d : Byte) (f : Fixture) : (latchBeat st d f).script = f.script := by
  unfold latchBeat
  split
  · rfl
  · split
    · rfl
    · simp only []
      split <;> rfl

theorem turnBus_script (x y : Bool) (f : Fixture) : (turnBus x y f).script = f.script := by
  unfold turnBus
  split
  · rfl
  · split <;> rfl

theorem presentByte_script (f : Fixture) : (presentByte f).script = f.script := by
  unfold presentByte
  simp only []
  split <;> rfl

theorem latchWires_script (s : State) : (latchWires s).fix.script = s.fix.script := by
  unfold latchWires
  split <;> exact latchBeat_script _ _ _

theorem setPins_script (q : Pins) (s : State) : (setPins q s).fix.script = s.fix.script := by
  unfold setPins watch
  split
  · rfl
  · simp only []
    split
    · rw [latchWires_script, turnBus_script]
    · split <;> simp only [presentByte_script, turnBus_script]

/-- No action changes the responder's script. -/
theorem perform_script (x : Action) (s : State) : (perform x s).fix.script = s.fix.script := by
  cases x with
  | pin p v => exact setPins_script _ s
  | dir d => exact setPins_script _ s
  | mwrite b v => exact setPins_script _ _
  | sampleData =>
    obtain ⟨o, d, h⟩ := sampleData_eq s
    simp only [perform, readBeat, h]
  | sampleNWait =>
    obtain ⟨o, d, n, h⟩ := sampleNWait_eq s
    simp only [perform, h]
  | inhibit v => rfl
  | saveOwm => rfl
  | writeOwmBus => rfl
  | restoreOwm => rfl

theorem waitOver_sampleNWait_script (s : State) : (waitOver (sampleNWait s).2).fix.script = s.fix.script := by
  obtain ⟨o, d, m, n, h⟩ := waitOver_sampleNWait_eq s
  rw [h]

theorem alwaysReady_of_script (h : AlwaysReady s) (he : t.env = s.env) (hs : t.fix.script = s.fix.script) : AlwaysReady t := by
  obtain ⟨henv, hdelay⟩ := h
  exact ⟨he.trans henv, fun j => by rw [hs]; exact hdelay j⟩

/-- The always-ready responder answers a sample of nWAIT with 1. -/
theorem sampleNWait_of_alwaysReady (h : AlwaysReady s) : (sampleNWait s).1 = true := by
  obtain ⟨he, hdelay⟩ := h
  rw [sampleNWait_of_delay he (hdelay _), if_neg (Nat.not_lt_zero _)]

/-- A wait has not run into its bound. -/
def WaitInTime (s : State) : Prop := isWait s.seq = true → boundReached s = false

/-- On the always-ready responder every step of a primitive does its action, or ends its wait, and goes on. -/
theorem primStep_of_alwaysReady (hi : Inv s) (hready : AlwaysReady s) (htime : WaitInTime s) (hq : s.seq = .run b p) :
    ∃ u, PastAction p s u ∧ u.fix.script = s.fix.script ∧ primStep b p s = primAfter b p u := by
  cases hw : primWait p with
  | none => exact ⟨_, pastAction_perform hi hq, perform_script _ s, primStep_of_action b s hw⟩
  | some w =>
    refine ⟨_, pastAction_wait hi hq hw, waitOver_sampleNWait_script s, ?_⟩
    have hb : boundReached s = false := htime (by rw [hq, isWait_run, hw]; rfl)
    have hsample := sampleNWait_of_alwaysReady hready
    rw [primStep_of_wait b s hw]
    obtain ⟨h, -⟩ | ⟨-, -, h⟩ | ⟨-, h, -⟩ := waitStep_cases w (primAfter b p) s
    · rw [hb] at h
      cases h
    · exact h
    · rw [hsample] at h
      cases h

/-- A wait that has just been entered is in time: a bound is not 0 (R9). -/
theorem waitInTime_primAfter (hbound : boundOk u.waitBound = true) (b : BlockPos) (p : PrimPos) :
    WaitInTime (primAfter b p u) := by
  intro hwait
  cases hr : returnsAt u.regs.k p with
  | false =>
    rw [primAfter_of_not_returnsAt b u hr] at hwait ⊢
    have henter := nextPos_wait hr hwait
    cases hb : u.waitBound with
    | none => exact boundReached_unbounded hb
    | some bound =>
      have hne : bound ≠ 0 := by simpa [boundOk, hb] using hbound
      simp [boundReached, stayInCall, hb, henter, hne.symm]
  | true =>
    rw [primAfter_of_returnsAt b u hr] at hwait
    obtain ⟨-, -, -, hno, -⟩ := (leadsOn_afterCall b { u with readRun := readRunAfter u.readRun p }).seq_facts
    rw [hno] at hwait
    cases hwait

theorem primAfter_seq_ne_idle (b : BlockPos) (p : PrimPos) (u : State) : (primAfter b p u).seq ≠ .idle := by
  cases hr : returnsAt u.regs.k p with
  | false =>
    rw [primAfter_of_not_returnsAt b u hr]
    exact nofun
  | true =>
    rw [primAfter_of_returnsAt b u hr]
    exact (leadsOn_afterCall b _).seq_facts.1

/-! ### What a command does and leaves alone (R89) -/

/-- A command `op` of `n` words from `base`, accepted in `s₀`, is in flight in `s`: a POKE has written only words of its own
range and no DEST, a PEEK no memory and only its own part of DEST. -/
structure CommandFrame (s₀ : State) (op : Op) (base : Address) (n : Count) (src : List Word) (s : State) : Prop where
  op_eq : s.regs.op = op
  n_eq : s.regs.n = n
  base_eq : baseAddress s.regs = base
  src_eq : s.src = src
  outside : op = .poke → ∀ a, (∀ j < n.toNat, a ≠ base + BitVec.ofNat 40 j) →
    readWord s.fix.mem a = readWord s₀.fix.mem a
  dest : op = .poke → s.dest = s₀.dest
  memory : op = .peek → s.fix.mem = s₀.fix.mem
  beyond : op = .peek → ∀ j, n.toNat ≤ j → destRead s.dest j = destRead s₀.dest j

section
variable {s₀ : State} {op : Op} {base : Address} {n : Count} {src : List Word}

theorem CommandFrame.transferStep (hf : CommandFrame s₀ op base n src s) (h : TransferStep s t) :
    CommandFrame s₀ op base n src t := by
  have hbase : baseAddress t.regs = base := h.baseAddress_eq.trans hf.base_eq
  cases h with
  | same h hmem =>
    exact
      { op_eq := h.op.trans hf.op_eq
        n_eq := h.n.trans hf.n_eq
        base_eq := hbase
        src_eq := h.src.trans hf.src_eq
        outside := by rw [hmem]; exact hf.outside
        dest := by rw [h.dest]; exact hf.dest
        memory := by rw [hmem]; exact hf.memory
        beyond := by rw [h.dest]; exact hf.beyond }
  | stored h hop hmore hmem =>
    have hpoke : op = .poke := hf.op_eq.symm.trans hop
    have ha : s.regs.a = base + BitVec.ofNat 40 s.regs.i.toNat := by
      rw [← hf.base_eq]
      exact (wordAddress_index s.regs).symm
    have hlt : s.regs.i.toNat < n.toNat := by rw [← hf.n_eq]; exact hmore
    exact
      { op_eq := h.op.trans hf.op_eq
        n_eq := h.n.trans hf.n_eq
        base_eq := hbase
        src_eq := h.src.trans hf.src_eq
        outside := fun _ a hout => by
          have hne : a ≠ s.regs.a := fun e => hout _ hlt (e.trans ha)
          rw [hmem, readWord_writeWord_other _ _ hne]
          exact hf.outside hpoke a hout
        dest := by rw [h.dest]; exact hf.dest
        memory := fun hpeek => by rw [hpoke] at hpeek; cases hpeek
        beyond := by rw [h.dest]; exact hf.beyond }
  | poked h hop hmem hdest hword =>
    exact
      { op_eq := h.op.trans hf.op_eq
        n_eq := h.n.trans hf.n_eq
        base_eq := hbase
        src_eq := h.src.trans hf.src_eq
        outside := by rw [hmem]; exact hf.outside
        dest := by rw [hdest]; exact hf.dest
        memory := by rw [hmem]; exact hf.memory
        beyond := by rw [hdest]; exact hf.beyond }
  | peeked h hop hmem hdest =>
    have hpeek : op = .peek := hf.op_eq.symm.trans hop
    have hlt : s.regs.i.toNat < n.toNat := by rw [← hf.n_eq]; exact h.more
    exact
      { op_eq := h.op.trans hf.op_eq
        n_eq := h.n.trans hf.n_eq
        base_eq := hbase
        src_eq := h.src.trans hf.src_eq
        outside := by rw [hmem]; exact hf.outside
        dest := fun hpoke => by rw [hpeek] at hpoke; cases hpoke
        memory := by rw [hmem]; exact hf.memory
        beyond := fun _ j hj => by
          rw [hdest, destRead_destWrite_other _ _ (by omega)]
          exact hf.beyond hpeek j hj }

/-- Everything that a step of a command in flight keeps on the always-ready responder, the engine to move. -/
structure Underway (s₀ : State) (op : Op) (base : Address) (n : Count) (src : List Word) (s : State) : Prop where
  inv : Inv s
  synced : Synced s
  words : WordsInPlace s
  ready : AlwaysReady s
  inTime : WaitInTime s
  turns : s.turns = []
  running : s.seq ≠ .idle
  frame : CommandFrame s₀ op base n src s

/-- A step of the primitive in flight keeps all of it and brings the end one step nearer. -/
theorem Underway.primStep (h : Underway s₀ op base n src s) (hq : s.seq = .run b p) :
    Underway s₀ op base n src (primStep b p s) ∧ stepsToEnd (primStep b p s) + 1 = stepsToEnd s := by
  have htransfer := primStep_transferStep h.inv h.synced h.ready.1 hq
  have hinv := inv_primStep h.inv hq
  have hsynced := synced_primStep h.inv h.synced hq
  obtain ⟨u, hpast, hscript, e⟩ := primStep_of_alwaysReady h.inv h.ready h.inTime hq
  rw [e] at htransfer hinv hsynced ⊢
  have hframe := hpast.frame.trans (primAfter_frame b p u)
  refine ⟨?_, stepsToEnd_primAfter h.inv hq hpast⟩
  exact
    { inv := hinv
      synced := hsynced
      words := h.words.transferStep htransfer
      ready := alwaysReady_of_script h.ready hframe.env (by rw [primAfter_fix, hscript])
      inTime := waitInTime_primAfter (by rw [hpast.frame.waitBound]; exact h.inv.bound) b p
      turns := hframe.turns.trans h.turns
      running := primAfter_seq_ne_idle b p u
      frame := h.frame.transferStep htransfer }

/-- A command on the always-ready responder comes to its `end:` line in the steps counted. -/
theorem Underway.runs {k : Nat} (h : Underway s₀ op base n src s) (hk : stepsToEnd s = k) :
    ∃ t, runsTo k s t ∧ t.seq = .finish ∧ Underway s₀ op base n src t := by
  induction k generalizing s with
  | zero =>
    cases hq : s.seq with
    | idle => exact absurd hq h.running
    | run b p =>
      have hpos := primStepsLeft_pos s.regs.k p
      rw [stepsToEnd_run hq] at hk
      omega
    | finish => exact ⟨s, runsTo_zero s, hq, h⟩
  | succ k ih =>
    cases hq : s.seq with
    | idle => exact absurd hq h.running
    | run b p =>
      obtain ⟨hnext, hsteps⟩ := h.primStep hq
      obtain ⟨t, hrun, hfinish, ht⟩ := ih hnext (by omega)
      exact ⟨t, runsTo_succ.mpr ⟨_, step_eq_primStep h.turns hq, hrun⟩, hfinish, ht⟩
    | finish =>
      simp only [stepsToEnd, hq] at hk
      cases hk

/-- At the `end:` line all `n` words are in their places. -/
theorem Underway.index_of_finish (h : Underway s₀ op base n src s) (hq : s.seq = .finish) : s.regs.i = n := by
  have hplace := h.inv.place
  simp only [placeOk, hq, Bool.and_eq_true, beq_iff_eq] at hplace
  exact hplace.2.trans h.frame.n_eq

/-- From its accept to its end: the run of a command whose first state is `s`, and the state that its end line leads to. -/
theorem Underway.run_to_end (h : Underway s₀ op base n src s) (hstep : step s₀ = .next s) :
    ∃ t, runsTo (1 + stepsToEnd s + 1) s₀ (endCommand t) ∧ t.seq = .finish ∧ Underway s₀ op base n src t := by
  obtain ⟨t, hrun, hfinish, ht⟩ := h.runs rfl
  have hend : step t = .next (endCommand t) := by
    simp [step_eq_outcomeOf, nextMove, ht.turns, engineMove, hfinish, outcomeOf]
  refine ⟨t, runsTo_snoc ?_ hend, hfinish, ht⟩
  rw [Nat.add_comm]
  exact runsTo_succ.mpr ⟨s, hstep, hrun⟩

end

end

/-! ### The accept of a command (R110, R190, R191) -/

section
variable (opc : Byte) (n : Count) (addr : HostAddress)

theorem descAddr_mkDescriptor : descAddr (mkDescriptor opc n addr) = addr :=
  BitVec.extractLsb'_append_eq_right

theorem descN_mkDescriptor : descN (mkDescriptor opc n addr) = n :=
  (BitVec.extractLsb'_append_eq_of_le (xhi := opc ++ (0 : BitVec 24) ++ n) (xlo := addr) (by decide)).trans
    BitVec.extractLsb'_append_eq_right

theorem descRsv_mkDescriptor : descRsv (mkDescriptor opc n addr) = 0 :=
  (BitVec.extractLsb'_append_eq_of_le (xhi := opc ++ (0 : BitVec 24) ++ n) (xlo := addr) (by decide)).trans
    ((BitVec.extractLsb'_append_eq_of_le (xhi := opc ++ (0 : BitVec 24)) (xlo := n) (by decide)).trans
      BitVec.extractLsb'_append_eq_right)

theorem descOpc_mkDescriptor : descOpc (mkDescriptor opc n addr) = opc :=
  (BitVec.extractLsb'_append_eq_of_le (xhi := opc ++ (0 : BitVec 24) ++ n) (xlo := addr) (by decide)).trans
    ((BitVec.extractLsb'_append_eq_of_le (xhi := opc ++ (0 : BitVec 24)) (xlo := n) (by decide)).trans
      BitVec.extractLsb'_append_eq_left)

end

theorem decodeDescriptor_poke (n : Count) (addr : HostAddress) :
    decodeDescriptor (mkDescriptor 0x01 n addr) = .ok (.poke addr n) := by
  simp [decodeDescriptor, reservedOk, descAddr_mkDescriptor, descN_mkDescriptor, descRsv_mkDescriptor, descOpc_mkDescriptor]

theorem decodeDescriptor_peek (n : Count) (addr : HostAddress) :
    decodeDescriptor (mkDescriptor 0x02 n addr) = .ok (.peek addr n) := by
  simp [decodeDescriptor, reservedOk, descAddr_mkDescriptor, descN_mkDescriptor, descRsv_mkDescriptor, descOpc_mkDescriptor]

section
variable {s : State} {o : Offer} {addr : HostAddress} {n : Count}

/-- The step that accepts an offered POKE (R190). -/
theorem step_accept_poke (ho : Offering o s) (hp : IsPoke o addr n) (hsrc : n.toNat ≤ o.srcCount) :
    step s = .next (pokeLoop (accept .poke addr n s)) := by
  have hdec : decodeDescriptor o.desc = .ok (.poke addr n) := by rw [hp]; exact decodeDescriptor_poke n addr
  rw [step_of_offer ho.turns ho.seq ho.busy ho.port hdec]
  simp [exec, execPoke, portReady, ho.seq, ho.busy, streamOk, offeredSrcCount, ho.port, hsrc]

/-- The step that accepts an offered PEEK (R191). -/
theorem step_accept_peek (ho : Offering o s) (hp : IsPeek o addr n) (hroom : n.toNat ≤ o.room) :
    step s = .next (callAddr .head (accept .peek addr n s)) := by
  have hdec : decodeDescriptor o.desc = .ok (.peek addr n) := by rw [hp]; exact decodeDescriptor_peek n addr
  rw [step_of_offer ho.turns ho.seq ho.busy ho.port hdec]
  simp [exec, execPeek, portReady, ho.seq, ho.busy, streamOk, offeredRoom, ho.port, hroom]

/-- A command is under way from its accept on. -/
theorem underway_of_accept {op : Op} {t : State} (hi : Inv s) (hseq : s.seq = .idle) (hturns : s.turns = [])
    (hready : AlwaysReady s) (hstep : EngineStep s t) (hlead : LeadsOn t)
    (heq : ∃ q w k, t = { accept op addr n s with
      seq := q, regs := { (accept op addr n s).regs with w := w, k := k } }) :
    Underway s op (trunc40 addr) n (offeredSrc s) t := by
  obtain ⟨hidle, -, -, hwait, -⟩ := hlead.seq_facts
  have hinv := engineStep_keeps_inv hi hstep
  have hsynced := engineStep_keeps_synced hi (synced_of_idle hseq) hstep
  obtain ⟨q, w, k, rfl⟩ := heq
  exact
    { inv := hinv
      synced := hsynced
      words := wordsInPlace_of_start rfl
      ready := hready
      inTime := fun h => by rw [hwait] at h; cases h
      turns := hturns
      running := hidle
      frame :=
        { op_eq := rfl
          n_eq := rfl
          base_eq := BitVec.sub_zero _
          src_eq := rfl
          outside := fun _ _ _ => rfl
          dest := fun _ => rfl
          memory := fun _ => rfl
          beyond := fun _ _ _ => rfl } }

/-- P of R194, with the page starts after the first word's address. -/
theorem addressPhases_eq (addr : HostAddress) {n : Count} (hn : n ≠ 0) :
    addressPhases addr n = 1 + pagesBegun (trunc40 addr) (n.toNat - 1) := by
  have hpos : n.toNat ≠ 0 := fun e => hn (BitVec.eq_of_toNat_eq e)
  simp only [addressPhases, pagesBegun, trunc40, BitVec.toNat_setWidth]
  omega

theorem stepsToEnd_accept_poke (hn : n ≠ 0) :
    stepsToEnd (pokeLoop (accept .poke addr n s)) = 24 * addressPhases addr n + 21 * n.toNat := by
  have hlt : 0#32 < n := by bv_omega
  have hpos : 0 < n.toNat := hlt
  rw [stepsToEnd_pokeLoop (s := accept .poke addr n s) rfl, addressPhases_eq addr hn]
  simp [hlt, stepsAfterWord, wordSteps, pageSteps, closingSteps]
  omega

theorem stepsToEnd_accept_peek :
    stepsToEnd (callAddr .head (accept .peek addr n s)) =
      24 * addressPhases addr n + 14 * n.toNat + rfinSteps s.rfinClkLow * addressPhases addr n := by
  rw [stepsToEnd_run (callAddr_seq _ _)]
  by_cases hn : n = 0
  · subst hn
    have hphase : addressPhases addr 0 = 1 := by
      have hzero : (0 : Count).toNat = 0 := rfl
      simp only [addressPhases, hzero]
      omega
    rw [hphase]
    simp [stepsAfterCall, primStepsLeft, addrStepsLeft]
  · have hlt : 0#32 < n := by bv_omega
    obtain ⟨m, hm⟩ : ∃ m, n.toNat = m + 1 := ⟨n.toNat - 1, by bv_omega⟩
    rw [addressPhases_eq addr hn]
    simp [stepsAfterCall, primStepsLeft, addrStepsLeft, hlt, stepsAfterWord, wordSteps, pageSteps, closingSteps, hm]
    ring

end

/-- Settles O53: the command runs to its end in the steps counted, with the words before I in place all along and nothing written
outside its range. -/
theorem pokeWritesExactlyItsWords : Obligations.PokeWritesExactlyItsWords := by
  intro s o addr n hi ho hp hn hsrc hready
  have hstep := step_accept_poke ho hp hsrc
  have hway : Underway s .poke (trunc40 addr) n (offeredSrc s) (pokeLoop (accept .poke addr n s)) :=
    underway_of_accept hi ho.seq ho.turns hready (.acceptPoke addr n ho.seq ho.busy) (leadsOn_pokeLoop _) (pokeLoop_eq _)
  obtain ⟨t, hrun, hfinish, ht⟩ := hway.run_to_end hstep
  have hindex := ht.index_of_finish hfinish
  have hoffer : offeredSrc s = o.src := by simp only [offeredSrc, ho.port]
  rw [stepsToEnd_accept_poke hn, ← Nat.add_assoc] at hrun
  refine ⟨endCommand t, hrun, ?_, ht.frame.outside rfl, ht.frame.dest rfl⟩
  intro j hj
  obtain ⟨hword, -⟩ := ht.words j (hindex ▸ hj)
  rw [← hoffer, ← ht.frame.src_eq, ← ht.frame.base_eq]
  exact hword ht.frame.op_eq

/-- Settles O54: the command runs to its end in the steps counted, with the words before I in DEST all along and no memory
written. -/
theorem peekReadsExactlyItsWords : Obligations.PeekReadsExactlyItsWords := by
  intro s o addr n hi ho hp hroom hready
  have hstep := step_accept_peek ho hp hroom
  have hway : Underway s .peek (trunc40 addr) n (offeredSrc s) (callAddr .head (accept .peek addr n s)) :=
    underway_of_accept hi ho.seq ho.turns hready (.acceptPeek addr n ho.seq ho.busy) (.inr ⟨_, _, rfl, rfl⟩) ⟨_, _, _, rfl⟩
  obtain ⟨t, hrun, hfinish, ht⟩ := hway.run_to_end hstep
  have hindex := ht.index_of_finish hfinish
  have hmem := ht.frame.memory rfl
  rw [stepsToEnd_accept_peek, ← Nat.add_assoc, ← Nat.add_assoc] at hrun
  refine ⟨endCommand t, hrun, ?_, ht.frame.beyond rfl, hmem⟩
  intro j hj
  obtain ⟨-, hword⟩ := ht.words j (hindex ▸ hj)
  rw [← hmem, ← ht.frame.base_eq]
  exact hword ht.frame.op_eq

end Sys2Proof.Machine
end

section
/-! SUPPORT. The codes of the operations: symbols and their concatenation, the bytes of a word, the decoder on codes, and the
stream of the wire: O1, O2, O3, O4, O5. -/

namespace Sys2Proof.Machine

/-! ### Wire symbols (R101, R106) -/

section
variable (nRD start nRD' start' : Bool) (b : Byte)

@[simp] theorem symNRD_mkSymbol : symNRD (mkSymbol nRD start b) = nRD := by
  rw [symNRD, mkSymbol, BitVec.getLsbD_append, if_neg (by decide), BitVec.getLsbD_append, if_neg (by decide)]
  cases nRD <;> rfl

@[simp] theorem symStart_mkSymbol : symStart (mkSymbol nRD start b) = start := by
  rw [symStart, mkSymbol, BitVec.getLsbD_append, if_neg (by decide), BitVec.getLsbD_append, if_pos (by decide)]
  cases start <;> rfl

@[simp] theorem symData_mkSymbol : symData (mkSymbol nRD start b) = b :=
  BitVec.extractLsb'_append_eq_right

@[simp] theorem hasLevels_mkSymbol :
    hasLevels nRD start (mkSymbol nRD' start' b) = (nRD' == nRD && start' == start) := by
  simp [hasLevels]

/-- Masking a symbol's DATA bits away leaves its control levels. -/
theorem mkSymbol_and_controlBits : mkSymbol nRD start b &&& 0x300 = mkSymbol nRD start 0 := by
  have hmask : (0x300 : Symbol) = BitVec.allOnes 1 ++ BitVec.allOnes 1 ++ 0#8 := by decide
  rw [hmask, mkSymbol, BitVec.and_append, BitVec.and_append, BitVec.and_allOnes, BitVec.and_allOnes, BitVec.and_zero]
  rfl

end

/-! ### The concatenation of symbols (R118) -/

/-- A symbol's place value is 1024, one more than its largest value. -/
theorem ofNat_symbol_place (acc : Nat) (y : Symbol) : BitVec.ofNat 10 (acc * 1024 + y.toNat) = y := by
  have hy := y.isLt
  apply BitVec.eq_of_toNat_eq
  rw [BitVec.toNat_ofNat]
  omega

/-- Shifting the symbols out leaves what stood before them. -/
theorem joinSymbols_shiftRight (ys : List Symbol) (acc : Nat) : joinSymbols ys acc >>> (10 * ys.length) = acc := by
  induction ys generalizing acc with
  | nil => rfl
  | cons y ys ih =>
    have hy := y.isLt
    rw [joinSymbols, List.length_cons, Nat.mul_add 10, Nat.shiftRight_add, ih, Nat.shiftRight_eq_div_pow]
    omega

/-- Beat `k` of the concatenation is symbol `k`. -/
theorem beatOf_joinSymbols (ys : List Symbol) (acc : Nat) {k : Nat} (hk : k < ys.length) :
    beatOf ys.length k (joinSymbols ys acc) = ys[k] := by
  induction ys generalizing acc k with
  | nil => exact absurd hk (Nat.not_lt_zero k)
  | cons y ys ih =>
    cases k with
    | zero =>
      rw [beatOf, joinSymbols, List.length_cons, Nat.sub_zero, Nat.add_sub_cancel, joinSymbols_shiftRight]
      exact ofNat_symbol_place acc y
    | succ k =>
      have hbeats : ys.length + 1 - 1 - (k + 1) = ys.length - 1 - k := by omega
      rw [beatOf, joinSymbols, List.length_cons, hbeats]
      exact ih _ (Nat.lt_of_succ_lt_succ hk)

theorem symbol_place_and (acc acc' : Nat) (y m : Symbol) :
    (acc * 1024 + y.toNat) &&& (acc' * 1024 + m.toNat) = (acc &&& acc') * 1024 + (y &&& m).toNat := by
  apply Nat.eq_of_testBit_eq
  intro i
  rw [Nat.mul_comm acc, Nat.mul_comm acc', Nat.mul_comm (acc &&& acc'), Nat.testBit_and]
  simp only [show 1024 = 2 ^ 10 from rfl, Nat.testBit_two_pow_mul_add _ (BitVec.isLt _)]
  split <;> simp

/-- A bitwise and works symbol by symbol. -/
theorem joinSymbols_and (ys ms : List Symbol) (acc acc' : Nat) (h : ys.length = ms.length) :
    joinSymbols ys acc &&& joinSymbols ms acc' = joinSymbols (List.zipWith (· &&& ·) ys ms) (acc &&& acc') := by
  induction ys generalizing ms acc acc' with
  | nil =>
    cases ms with
    | nil => rfl
    | cons m ms => cases h
  | cons y ys ih =>
    cases ms with
    | nil => cases h
    | cons m ms =>
      rw [joinSymbols, joinSymbols, List.zipWith_cons_cons, joinSymbols, ih ms _ _ (Nat.succ.inj h), symbol_place_and]

/-! ### The bytes of an address and of a word (R102, R103) -/

theorem byteOfAddress_eq_muxByte (a : Address) (k : Nat) : byteOfAddress a k = muxByte a k :=
  BitVec.setWidth_ushiftRight_eq_extractLsb.symm

theorem byteOfWord_eq_muxByte (w : Word) (k : Nat) : byteOfWord w k = muxByte w k :=
  BitVec.setWidth_ushiftRight_eq_extractLsb.symm

/-- The bytes of an address, low byte first, are the address. -/
theorem byteOfAddress_append (a : Address) :
    byteOfAddress a 4 ++ byteOfAddress a 3 ++ byteOfAddress a 2 ++ byteOfAddress a 1 ++ byteOfAddress a 0 = a := by
  have join (k len : Nat) : a.extractLsb' (8 * (k + 1)) len ++ a.extractLsb' (8 * k) 8 = a.extractLsb' (8 * k) (len + 8) :=
    BitVec.extractLsb'_append_extractLsb'_eq_extractLsb' rfl
  simp only [byteOfAddress, join 3, join 2, join 1, join 0]
  exact BitVec.extractLsb'_eq_self

/-- The bytes of a word, low byte first, are the word. -/
theorem byteOfWord_append (w : Word) : byteOfWord w 3 ++ byteOfWord w 2 ++ byteOfWord w 1 ++ byteOfWord w 0 = w := by
  simp only [byteOfWord_eq_muxByte, muxByte_append]

/-- One byte shifted in below the bytes above it. -/
theorem ushiftRight_succ_byte_or {w : Nat} (v : BitVec w) (k : Nat) :
    (v >>> (8 * (k + 1))) <<< 8 ||| (v.extractLsb' (8 * k) 8).setWidth w = v >>> (8 * k) := by
  apply BitVec.eq_of_getLsbD_eq
  intro i hi
  by_cases h : i < 8
  · simp [hi, h]
  · simp [hi, h, show 8 * (k + 1) + (i - 8) = 8 * k + i by omega]

theorem addressOfBytes_byteOfAddress (a : Address) :
    addressOfBytes [byteOfAddress a 0, byteOfAddress a 1, byteOfAddress a 2, byteOfAddress a 3, byteOfAddress a 4] = a := by
  have hnone : (0 : Address) = a >>> (8 * 5) := (BitVec.ushiftRight_eq_zero (by decide)).symm
  simp only [addressOfBytes, byteOfAddress, hnone, ushiftRight_succ_byte_or a]
  exact BitVec.ushiftRight_zero a

theorem wordOfBytes_byteOfWord (w : Word) :
    wordOfBytes [byteOfWord w 0, byteOfWord w 1, byteOfWord w 2, byteOfWord w 3] = w := by
  have hnone : (0 : Word) = w >>> (8 * 4) := (BitVec.ushiftRight_eq_zero (by decide)).symm
  simp only [wordOfBytes, byteOfWord, hnone, ushiftRight_succ_byte_or w]
  exact BitVec.ushiftRight_zero w

/-! ### The decoder on codes (R102 to R105, R110, R111) -/

/-- What stands in the five beats is what format A5 looks at. -/
theorem decodeA5_joinSymbols (y0 y1 y2 y3 y4 : Symbol) :
    decodeA5 (joinSymbols [y0, y1, y2, y3, y4] 0) =
      if hasLevels true true y0 && hasLevels true false y1 && hasLevels true false y2 && hasLevels true false y3 &&
          hasLevels true false y4 then
        .ok (.addr (symData y4 ++ symData y3 ++ symData y2 ++ symData y1 ++ symData y0))
      else .error .notAWirePattern := by
  have hbeat (k : Nat) (hk : k < 5) := beatOf_joinSymbols [y0, y1, y2, y3, y4] 0 hk
  simp only [List.length_cons, List.length_nil] at hbeat
  simp only [decodeA5, hbeat 0 (by decide), hbeat 1 (by decide), hbeat 2 (by decide), hbeat 3 (by decide), hbeat 4 (by decide)]
  rfl

/-- What stands in the four beats is what formats W4 and R4 look at. -/
theorem decodeWordTransfer_joinSymbols (y0 y1 y2 y3 : Symbol) :
    decodeWordTransfer (joinSymbols [y0, y1, y2, y3] 0) =
      if hasLevels true false y0 && hasLevels true false y1 && hasLevels true false y2 && hasLevels true false y3 then
        .ok (.wdata (symData y3 ++ symData y2 ++ symData y1 ++ symData y0))
      else if hasLevels false false y0 && hasLevels false false y1 && hasLevels false false y2 && hasLevels false false y3 then
        .ok .rdata
      else .error .notAWirePattern := by
  have hbeat (k : Nat) (hk : k < 4) := beatOf_joinSymbols [y0, y1, y2, y3] 0 hk
  simp only [List.length_cons, List.length_nil] at hbeat
  simp only [decodeWordTransfer, hbeat 0 (by decide), hbeat 1 (by decide), hbeat 2 (by decide), hbeat 3 (by decide)]
  rfl

section
variable {v : Nat}

theorem decodeBits_descriptor (h : v < 2 ^ 128) : decodeBits 128 v = decodeDescriptor (BitVec.ofNat 128 v) := by
  rw [decodeBits, if_pos rfl, if_pos h]

theorem decodeBits_address (h : v < 2 ^ 50) : decodeBits 50 v = decodeA5 v := by
  rw [decodeBits, if_neg (by decide), if_pos (by decide), if_pos h]

theorem decodeBits_word (h : v < 2 ^ 40) : decodeBits 40 v = decodeWordTransfer v := by
  rw [decodeBits, if_neg (by decide), if_neg (by decide), if_pos rfl, if_pos h]

theorem decodeTableWord_of_decodeBits {nbits : Nat} {i : Instr} (h : decodeBits nbits v = .ok i) :
    decodeTableWord nbits v = some i := by
  simp only [decodeTableWord, h]

end

/-- Beat by beat the decoder finds the levels of the row's format, and the bytes that the encoder cut. -/
theorem decodeBits_encode (i : Instr) : decodeBits (codeWidth i) (encode i) = .ok i := by
  cases i with
  | poke addr n =>
    rw [codeWidth, decodeBits_descriptor (Laws.EncodeFits.poke addr n), encode, BitVec.ofNat_toNat, BitVec.setWidth_eq]
    exact decodeDescriptor_poke n addr
  | peek addr n =>
    rw [codeWidth, decodeBits_descriptor (Laws.EncodeFits.peek addr n), encode, BitVec.ofNat_toNat, BitVec.setWidth_eq]
    exact decodeDescriptor_peek n addr
  | addr a =>
    rw [codeWidth, decodeBits_address (Laws.EncodeFits.addr a), encode, wireSymbols, decodeA5_joinSymbols]
    simp [byteOfAddress_append]
  | wdata w =>
    rw [codeWidth, decodeBits_word (Laws.EncodeFits.wdata w), encode, wireSymbols, decodeWordTransfer_joinSymbols]
    simp [byteOfWord_append]
  | rdata =>
    rw [codeWidth, decodeBits_word Laws.EncodeFits.rdata, encode, wireSymbols, decodeWordTransfer_joinSymbols]
    simp
  | rfin => rfl

/-- Settles O1, row by row of the table. -/
theorem decodeOfEncodeIsTheInstruction : Obligations.DecodeOfEncodeIsTheInstruction :=
  fun i => decodeTableWord_of_decodeBits (decodeBits_encode i)

/-! ### The opcode table (R111, R118) -/

/-- The descriptor rows' mask keeps OPC and RSV, the upper 32 bits. -/
theorem mkDescriptor_and_tableMask (opc : Byte) (n : Count) (addr : HostAddress) :
    (mkDescriptor opc n addr).toNat &&& 0xFFFFFFFF000000000000000000000000 = (mkDescriptor opc 0 0).toNat := by
  have hand : opc ++ 0#24 ++ n ++ addr &&& (BitVec.allOnes 8 ++ BitVec.allOnes 24 ++ 0#32 ++ 0#64) =
      opc ++ 0#24 ++ 0#32 ++ 0#64 := by
    simp only [BitVec.and_append, BitVec.and_allOnes, BitVec.and_zero]
  exact congrArg BitVec.toNat hand

/-- Settles O2: a descriptor's mask keeps OPC and RSV, a wire row's the control levels of every beat. -/
theorem encodeMatchesTheOpcodeTable : Obligations.EncodeMatchesTheOpcodeTable := by
  intro i
  cases i with
  | poke addr n => exact mkDescriptor_and_tableMask 0x01 n addr
  | peek addr n => exact mkDescriptor_and_tableMask 0x02 n addr
  | addr a =>
    have h := joinSymbols_and (wireSymbols (.addr a)) (List.replicate 5 0x300) 0 0 rfl
    simp only [wireSymbols, List.replicate, List.zipWith_cons_cons, mkSymbol_and_controlBits] at h
    exact h
  | wdata w =>
    have h := joinSymbols_and (wireSymbols (.wdata w)) (List.replicate 4 0x300) 0 0 rfl
    simp only [wireSymbols, List.replicate, List.zipWith_cons_cons, mkSymbol_and_controlBits] at h
    exact h
  | rdata => rfl
  | rfin => rfl

/-- Settles O3 by evaluating the decoder on the nine words. -/
theorem decodedWordsOfTheSpec : Obligations.DecodedWordsOfTheSpec :=
  ⟨by decide, by decide, by decide, by decide, by decide, by decide, by decide, by decide, by decide⟩

/-! ### The stream of the wire (R107) -/

/-- Between two transfers the five beats of an address phase are read as that address. -/
theorem decodeWire_addr (a : Address) (ys : List Symbol) :
    decodeWire ⟨[], [], []⟩ (wireSymbols (.addr a) ++ ys) = (decodeWire ⟨[], [], []⟩ ys).map (.address a :: ·) := by
  simp [wireSymbols, decodeWire, wireStep, addressOfBytes_byteOfAddress, Option.map_map, Function.comp_def]

/-- Between two transfers the four beats of a word written are read as that word. -/
theorem decodeWire_wdata (w : Word) (ys : List Symbol) :
    decodeWire ⟨[], [], []⟩ (wireSymbols (.wdata w) ++ ys) = (decodeWire ⟨[], [], []⟩ ys).map (.wrote w :: ·) := by
  simp [wireSymbols, decodeWire, wireStep, wordOfBytes_byteOfWord, Option.map_map, Function.comp_def]

/-- Any number of words written, one after the other. -/
theorem decodeWire_words (ws : List Word) :
    decodeWire ⟨[], [], []⟩ (ws.flatMap fun w => wireSymbols (.wdata w)) = some (ws.map .wrote) := by
  induction ws with
  | nil => rfl
  | cons w ws ih => rw [List.flatMap_cons, decodeWire_wdata, ih, Option.map_some, List.map_cons]

/-- Settles O4, by induction on the words: every transfer leaves no byte in progress. -/
theorem wireStreamSeparatesAddressFromData : Obligations.WireStreamSeparatesAddressFromData := by
  intro a ws
  rw [decodeWire_addr, decodeWire_words, Option.map_some]

/-! ### What a descriptor can hold (R100, R110, R111, R113) -/

/-- A descriptor decodes to one of the two commands, or it is illegal. -/
theorem decodeDescriptor_cases (d : Descriptor) :
    (descRsv d = 0 ∧ descOpc d = 0x01 ∧ decodeDescriptor d = .ok (.poke (descAddr d) (descN d))) ∨
    (descRsv d = 0 ∧ descOpc d = 0x02 ∧ decodeDescriptor d = .ok (.peek (descAddr d) (descN d))) ∨
    ((descRsv d ≠ 0 ∨ (descOpc d ≠ 0x01 ∧ descOpc d ≠ 0x02)) ∧ ∃ e, decodeDescriptor d = .error e) := by
  have hrsv : reservedOk (descRsv d) = true ↔ descRsv d = 0 := beq_iff_eq
  unfold decodeDescriptor
  split
  · next h =>
    split
    · next hpoke => exact .inl ⟨hrsv.mp h, hpoke, rfl⟩
    · next hpoke =>
      split
      · next hpeek => exact .inr (.inl ⟨hrsv.mp h, hpeek, rfl⟩)
      · next hpeek => exact .inr (.inr ⟨.inr ⟨hpoke, hpeek⟩, _, rfl⟩)
  · next h => exact .inr (.inr ⟨.inl fun hzero => h (hrsv.mpr hzero), _, rfl⟩)

theorem decodeDescriptor_isCommand {d : Descriptor} {i : Instr} (h : decodeDescriptor d = .ok i) : i.isCommand = true := by
  obtain ⟨-, -, hd⟩ | ⟨-, -, hd⟩ | ⟨-, e, hd⟩ := decodeDescriptor_cases d <;> rw [hd] at h <;> cases h <;> rfl

/-- Settles O5: 128 bits are read as a descriptor, or not at all. -/
theorem descriptorsHoldOnlyCommands : Obligations.DescriptorsHoldOnlyCommands := by
  intro v i h
  by_cases hfit : v < 2 ^ 128
  · rw [decodeBits_descriptor hfit] at h
    exact decodeDescriptor_isCommand h
  · rw [decodeBits, if_pos rfl, if_neg hfit] at h
    cases h

end Sys2Proof.Machine
end

section
/-! SUPPORT. What stands at the port and at a fetch: O6, O9, O19, O36. -/

namespace Sys2Proof.Machine

/-! ### Refusals at IDLE (R100, R112, R113, R213) -/

section
variable {s : State}

/-- A step at IDLE with an illegal descriptor in front of the port refuses it. -/
theorem step_of_illegal_offer {o : Offer} {rest : List Offer} {e : DecodeError} (hturns : s.turns = []) (hseq : s.seq = .idle)
    (hbusy : s.busy = false) (hport : s.port = o :: rest) (hdec : decodeDescriptor o.desc = .error e) :
    step s = .next (refuseContract s) := by
  simp [step_eq_outcomeOf, nextMove, hturns, engineMove, hseq, hbusy, portMove, hport, hdec, outcomeOf]

theorem portReady_of_idle (hseq : s.seq = .idle) (hbusy : s.busy = false) : portReady s = true := by
  simp [portReady, hseq, hbusy]

/-- A primitive that no command has called is refused (R160; log 2). -/
theorem exec_primitive_of_idle {i : Instr} (hseq : s.seq = .idle) (hi : i.isCommand = false) :
    exec i s = .refused .notCalled := by
  cases i with
  | poke addr n => cases hi
  | peek addr n => cases hi
  | addr a => simp only [exec, execAddr, hseq]
  | wdata w => simp only [exec, execWdata, hseq]
  | rdata => simp only [exec, execRdata, hseq]
  | rfin => simp only [exec, execRfin, hseq]

/-- What the engine's step from IDLE does: hold, refuse the offer, or run a command (R29, R110, R113, R227). -/
theorem step_of_idle (hturns : s.turns = []) (hseq : s.seq = .idle) :
    step s = .next s ∨ step s = .next (refuseContract s) ∨ ∃ i : Instr, i.isCommand = true ∧ step s = exec i s := by
  have hstep : step s = outcomeOf (engineMove s) := by rw [step_eq_outcomeOf, nextMove, hturns]
  obtain ⟨-, -, hm⟩ | ⟨-, -, hm⟩ | ⟨b, p, hrun, -⟩ | ⟨hfinish, -⟩ := engineMove_cases s
  · exact .inl (by rw [hstep, hm, outcomeOf])
  · obtain ⟨-, hp⟩ | ⟨o, r, i, -, hdec, hp⟩ | ⟨o, r, e, -, -, hp⟩ := portMove_cases s
    · exact .inl (by rw [hstep, hm, hp, outcomeOf])
    · exact .inr (.inr ⟨i, decodeDescriptor_isCommand hdec, by rw [hstep, hm, hp, outcomeOf]⟩)
    · exact .inr (.inl (by rw [hstep, hm, hp, outcomeOf]))
  · rw [hseq] at hrun; cases hrun
  · rw [hseq] at hfinish; cases hfinish

/-- What a step from IDLE leaves alone: the pins, the masks and the inhibit flag, DEST and the responder's side. -/
theorem engineStep_idle_frame {t : State} (hseq : s.seq = .idle) (h : EngineStep s t) :
    t.pins = s.pins ∧ t.owm = s.owm ∧ t.owmSaved = s.owmSaved ∧ t.irqInhibit = s.irqInhibit ∧ t.dest = s.dest ∧ t.fix = s.fix ∧
      t.readRun = s.readRun := by
  cases h with
  | rest => exact ⟨rfl, rfl, rfl, rfl, rfl, rfl, rfl⟩
  | refuse => exact ⟨rfl, rfl, rfl, rfl, rfl, rfl, rfl⟩
  | acceptPoke addr n =>
    obtain ⟨q, w, k, e⟩ := pokeLoop_eq (accept .poke addr n s)
    rw [e]
    exact ⟨rfl, rfl, rfl, rfl, rfl, rfl, rfl⟩
  | acceptPeek => exact ⟨rfl, rfl, rfl, rfl, rfl, rfl, rfl⟩
  | prim b p hrun => rw [hseq] at hrun; cases hrun
  | finish hfinish => rw [hseq] at hfinish; cases hfinish

end

/-- Settles O6: a descriptor with a wrong OPC or RSV is in neither of the two cases that decode. -/
theorem illegalDescriptorIsRefused : Obligations.IllegalDescriptorIsRefused := by
  rintro s o rest d hturns hseq hbusy hport rfl hillegal
  obtain ⟨hrsv, hopc, -⟩ | ⟨hrsv, hopc, -⟩ | ⟨-, e, hdec⟩ := decodeDescriptor_cases o.desc
  · simp [hrsv, hopc] at hillegal
  · simp [hrsv, hopc] at hillegal
  · rw [step_of_illegal_offer hturns hseq hbusy hport hdec, refuseContract, hport]
    rfl

/-- Settles O9: the test of the stream fails, so either command takes its second branch. -/
theorem shortBuffersAreRefused : Obligations.ShortBuffersAreRefused := by
  intro addr n s hseq hbusy
  have hready := portReady_of_idle hseq hbusy
  constructor
  · intro hshort
    have hstream : streamOk (.poke addr n) (offeredSrcCount s) (offeredRoom s) = false := by simpa [streamOk] using hshort
    simp only [exec, execPoke, hready, hstream]
    rfl
  · intro hshort
    have hstream : streamOk (.peek addr n) (offeredSrcCount s) (offeredRoom s) = false := by simpa [streamOk] using hshort
    simp only [exec, execPeek, hready, hstream]
    rfl

/-- Settles O19: the port holds commands only, and an accept or a refusal is no action of R130. -/
theorem primitivesRunOnlyWhenCalled : Obligations.PrimitivesRunOnlyWhenCalled := by
  intro s hseq
  exact ⟨fun a => exec_primitive_of_idle hseq rfl, fun w => exec_primitive_of_idle hseq rfl, exec_primitive_of_idle hseq rfl,
    exec_primitive_of_idle hseq rfl, fun hturns => step_of_idle hturns hseq,
    fun t hturns h => engineStep_idle_frame hseq (engineStep_of_step hturns h)⟩

/-! ### The state a fetch begins in (log 24) -/

section
variable {s : State}

/-- A descriptor at the port of a good state at rest is one more good state. -/
theorem inv_offerNext (hi : Inv s) (hq : s.seq = .idle) (d : Descriptor) : Inv (offerNext d s) where
  memory := hi.memory
  dest := hi.dest
  bound := hi.bound
  busy := rfl
  inhibit := by
    have hinhibit := hi.inhibit
    rwa [hq] at hinhibit
  mask := nofun
  save := rfl
  polls := pollsOk_of_not_wait rfl
  drive := hi.drive
  place := by
    have hr := hi.readRun_of_idle hq
    simp [placeOk, hr]

/-- The levels that a call finds (R176). -/
theorem callPinsOk_atCall (op : Op) (n : Count) (s : State) : callPinsOk (atCall op n s) = true := rfl

/-- A call placed in a good state, its line and its levels as they should be, is a good state. -/
theorem inv_of_call {t : State} (hi : Inv s) (op : Op) (n : Count)
    (hcall : ∃ q r, t = { atCall op n s with seq := q, regs := r }) (hlead : LeadsOn t) (hplace : placeOk t = true) : Inv t := by
  obtain ⟨q, r, rfl⟩ := hcall
  exact inv_of_leadsOn hlead hplace hi.memory hi.dest hi.bound rfl rfl fun _ _ => rfl

end

/-- Settles O36: what is placed is a call that block control makes with no word transferred yet. -/
theorem fetchedWordStandsInAGoodState : Obligations.FetchedWordStandsInAGoodState := by
  intro s nbits v hi hq
  rw [State.withFetchWord]
  by_cases hn : nbits = 128
  · rw [hn, fetchNext_descriptor]
    exact inv_offerNext hi hq _
  · cases hdec : decodeBits nbits v with
    | error e => rwa [fetchNext, if_neg hn, hdec]
    | ok i =>
      cases i with
      | poke addr n => exact absurd (decodeBits_isPrimitive hn hdec) nofun
      | peek addr n => exact absurd (decodeBits_isPrimitive hn hdec) nofun
      | addr a =>
        rw [fetchNext_addr hn hdec]
        exact inv_of_call hi .poke 1 ⟨_, _, rfl⟩ (.inr ⟨_, _, rfl, rfl⟩) (placeOk_callAddr rfl rfl)
      | wdata w =>
        rw [fetchNext_wdata hn hdec]
        exact inv_of_call hi .poke 1 ⟨_, _, rfl⟩ (.inr ⟨_, _, rfl, rfl⟩) (placeOk_callWdata w rfl rfl (callPinsOk_atCall .poke 1 s))
      | rdata =>
        rw [fetchNext_rdata hn hdec]
        exact inv_of_call hi .peek 1 ⟨_, _, rfl⟩ (.inr ⟨_, _, rfl, rfl⟩) (placeOk_callRdata rfl (callPinsOk_atCall .peek 1 s))
      | rfin =>
        rw [fetchNext_rfin hn hdec]
        exact inv_of_call hi .peek 0 ⟨_, _, rfl⟩ (leadsOn_callRfin .last _) (placeOk_callRfin rfl rfl (callPinsOk_atCall .peek 0 s))

end Sys2Proof.Machine
end

section
/-! SUPPORT. The symbols on the bus: the clock's edges and the beats of a transfer: O45, O46. -/

namespace Sys2Proof.Machine

/-! ### The levels at the edges of CLK (R106, R113) -/

section
variable {s t : State} {b : BlockPos} {p : PrimPos}

theorem primAfter_pins (b : BlockPos) (p : PrimPos) (s : State) : (primAfter b p s).pins = s.pins := by
  obtain ⟨q, r, d, v, h⟩ := controlOnly_primAfter b p s
  rw [h]

theorem Inv.rfinPinsOk_run {p : RfinPos} (hi : Inv s) (hq : s.seq = .run b (.rfin p)) :
    rfinPinsOk p s.readRun s.rfinClkLow s.regs s.pins = true :=
  (hi.placeOk_run hq).2

/-- CLK is written in write mode by ADDR and WDATA, with START = 0 by RDATA and RFIN (R162, R166, R170, R174). -/
theorem Inv.levels_at_clk_write {v : Bool} (hi : Inv s) (hq : s.seq = .run b p) (hx : primAction s.regs p = .pin .clk v) :
    s.pins.nRD = true ∨ s.pins.start = false := by
  cases p with
  | addr p =>
    have hp := hi.addrPinsOk_run hq
    cases p with
    | hi =>
      simp only [addrPinsOk, Bool.and_eq_true] at hp
      obtain ⟨⟨⟨⟨-, hnRD⟩, -⟩, -⟩, -⟩ := hp
      exact .inl hnRD
    | lo =>
      simp only [addrPinsOk, Bool.and_eq_true] at hp
      obtain ⟨⟨⟨⟨⟨-, hnRD⟩, -⟩, -⟩, -⟩, -⟩ := hp
      exact .inl hnRD
    | _ => cases hx
  | wdata p =>
    have hp := hi.wdataPinsOk_run hq
    simp only [wdataPinsOk, Bool.and_eq_true] at hp
    obtain ⟨⟨⟨hnRD, -⟩, -⟩, -⟩ := hp
    exact .inl hnRD
  | rdata p =>
    have hp := hi.rdataPinsOk_run hq
    simp only [rdataPinsOk, Bool.and_eq_true, Bool.not_eq_true'] at hp
    obtain ⟨hstart, -⟩ := hp
    exact .inr hstart
  | rfin p =>
    have hp := hi.rfinPinsOk_run hq
    simp only [rfinPinsOk, Bool.and_eq_true, Bool.not_eq_true'] at hp
    obtain ⟨⟨hstart, -⟩, -⟩ := hp
    exact .inr hstart

/-- Only a write of CLK moves CLK, and it moves nothing else (R131 to R133, R140). -/
theorem actionPins_of_clk_edge {x : Action} {q : Pins} (h : (actionPins x q).clk ≠ q.clk) :
    ∃ v, x = .pin .clk v ∧ actionPins x q = { q with clk := v } := by
  cases x with
  | pin c v =>
    cases c with
    | clk => exact ⟨v, rfl, rfl⟩
    | nRD => exact absurd rfl h
    | start => exact absurd rfl h
  | _ => exact absurd rfl h

/-- The pins after a step of a primitive are those its position's action leaves, or the same as before. -/
theorem primStep_pins (hi : Inv s) (hq : s.seq = .run b p) :
    (primStep b p s).pins = actionPins (primAction s.regs p) s.pins ∨ (primStep b p s).pins = s.pins := by
  cases hw : primWait p with
  | none =>
    rw [primStep_of_action b s hw, primAfter_pins]
    exact .inl (pastAction_perform hi hq).pins
  | some w =>
    right
    obtain ⟨o, d, m, n, hsample⟩ := waitOver_sampleNWait_eq s
    obtain ⟨o', d', n', hzero⟩ := sampleNWait_eq s
    rw [primStep_of_wait b s hw]
    obtain ⟨-, h⟩ | ⟨-, -, h⟩ | ⟨-, -, h⟩ := waitStep_cases w (primAfter b p) s
    · rw [h, raiseAckTimeout_eq]
    · rw [h, primAfter_pins, hsample]
    · rw [h, countPoll_eq, hzero]

/-- An edge of CLK in the engine's step comes with the levels of a format. -/
theorem engineStep_clk_edge (hi : Inv s) (h : EngineStep s t) (hedge : t.pins.clk ≠ s.pins.clk) :
    t.pins.nRD = true ∨ t.pins.start = false := by
  cases h with
  | rest => exact absurd rfl hedge
  | refuse => exact absurd rfl hedge
  | acceptPoke addr n hseq hbusy =>
    obtain ⟨hpins, -⟩ := engineStep_idle_frame hseq (.acceptPoke addr n hseq hbusy)
    exact absurd (congrArg Pins.clk hpins) hedge
  | acceptPeek => exact absurd rfl hedge
  | prim b p hq =>
    obtain hpins | hpins := primStep_pins hi hq
    · rw [hpins] at hedge ⊢
      obtain ⟨v, hx, hwrite⟩ := actionPins_of_clk_edge hedge
      rw [hwrite]
      exact hi.levels_at_clk_write hq hx
    · exact absurd (congrArg Pins.clk hpins) hedge
  | finish => exact absurd rfl hedge

end

/-- Settles O45: CLK moves in the engine's steps only, there by a write of CLK. -/
theorem noClockEdgeAtTheUnusedLevels : Obligations.NoClockEdgeAtTheUnusedLevels := by
  intro s t hi h hedge
  cases machineStep_of_step h with
  | engine ts t he => exact engineStep_clk_edge (hi.withTurns ts) he hedge
  | handlerOwm => exact absurd rfl hedge
  | handlerPins => exact absurd rfl hedge
  | configure => exact absurd rfl hedge

/-! ### The beats of a transfer (R101 to R104) -/

/-- The test for the first beat, on K and on its number. -/
theorem beat_beq_zero (k : BitVec 3) : (k == 0) = decide (k.toNat = 0) := by
  rw [Bool.eq_iff_iff, beq_iff_eq, decide_eq_true_eq, ← BitVec.toNat_inj]
  rfl

/-- Symbol `k` of an address phase: START = 1 with the first byte only (R102). -/
theorem wireSymbols_addr_getElem? (a : Address) {k : Nat} (hk : k ≤ 4) :
    (wireSymbols (.addr a))[k]? = some (mkSymbol true (decide (k = 0)) (muxByte a k)) := by
  simp only [wireSymbols, byteOfAddress_eq_muxByte]
  interval_cases k <;> rfl

/-- Symbol `k` of a word written (R103). -/
theorem wireSymbols_wdata_getElem? (w : Word) {k : Nat} (hk : k ≤ 3) :
    (wireSymbols (.wdata w))[k]? = some (mkSymbol true false (muxByte w k)) := by
  simp only [wireSymbols, byteOfWord_eq_muxByte]
  interval_cases k <;> rfl

/-- With the responder silent the bus carries what the engine drives (R21, R101). -/
theorem busSymbol_of_out {q : Pins} (h : q.dir = .out) : busSymbol q none = some (mkSymbol q.nRD q.start q.dout) := by
  simp only [busSymbol, dataWires, h, Option.map_some]

/-- With DIR = in it carries what the responder drives, beside the engine's levels. -/
theorem busSymbol_of_inp {q : Pins} (d : Byte) (h : q.dir = .inp) : busSymbol q (some d) = some (mkSymbol q.nRD q.start d) := by
  simp only [busSymbol, dataWires, h, Option.map_some]

/-- Settles O46: the levels that a good state has at the falling edge of a beat, and at a sample, are the encoder's. -/
theorem beatsCarryTheSymbolsOfTheEncoding : Obligations.BeatsCarryTheSymbolsOfTheEncoding := by
  intro s b hi
  refine ⟨fun hq => ?_, fun hq => ?_, fun hq d => ?_⟩
  · have hp := hi.addrPinsOk_run hq
    simp only [addrPinsOk, Bool.and_eq_true, decide_eq_true_eq, beq_iff_eq] at hp
    obtain ⟨⟨⟨⟨⟨hk, hnRD⟩, hdir⟩, hstart⟩, hdout⟩, hclk⟩ := hp
    rw [busSymbol_of_out hdir, wireSymbols_addr_getElem? s.regs.a hk, hnRD, hstart, beat_beq_zero, hdout]
    exact ⟨rfl, hclk⟩
  · have hp := hi.wdataPinsOk_run hq
    simp only [wdataPinsOk, Bool.and_eq_true, decide_eq_true_eq, beq_iff_eq, Bool.not_eq_true'] at hp
    obtain ⟨⟨⟨hnRD, hdir⟩, hstart⟩, ⟨hk, hdout⟩, hclk⟩ := hp
    rw [busSymbol_of_out hdir, wireSymbols_wdata_getElem? s.regs.w hk, hnRD, hstart, hdout]
    exact ⟨rfl, hclk⟩
  · have hp := hi.rdataPinsOk_run hq
    simp only [rdataPinsOk, Bool.and_eq_true, decide_eq_true_eq, beq_iff_eq, Bool.not_eq_true'] at hp
    obtain ⟨hstart, ⟨⟨⟨-, -⟩, hnRD⟩, hdir⟩, hclk⟩ := hp
    rw [busSymbol_of_inp d hdir, hnRD, hstart]
    exact ⟨rfl, hclk⟩

end Sys2Proof.Machine
end

section
/-! SUPPORT. The single actions of R130, the steps of a wait, and a handler's move: O20, O21, O24, O26 to O30, O43. -/

namespace Sys2Proof.Machine

/-! ### One step of a wait (R139) -/

section
variable {s : State} {w : WaitKind} {cont : State → State}

theorem waitStep_of_boundReached (hb : boundReached s = true) : waitStep w cont s = raiseAckTimeout w s := by
  obtain ⟨-, h⟩ | ⟨hn, -⟩ | ⟨hn, -⟩ := waitStep_cases w cont s
  · exact h
  · rw [hb] at hn; cases hn
  · rw [hb] at hn; cases hn

theorem waitStep_of_one (hb : boundReached s = false) (hone : (sampleNWait s).1 = true) :
    waitStep w cont s = cont (waitOver (sampleNWait s).2) := by
  obtain ⟨hr, -⟩ | ⟨-, -, h⟩ | ⟨-, hz, -⟩ := waitStep_cases w cont s
  · rw [hb] at hr; cases hr
  · exact h
  · rw [hone] at hz; cases hz

theorem waitStep_of_zero (hb : boundReached s = false) (hzero : (sampleNWait s).1 = false) :
    waitStep w cont s = countPoll (sampleNWait s).2 := by
  obtain ⟨hr, -⟩ | ⟨-, ho, -⟩ | ⟨-, -, h⟩ := waitStep_cases w cont s
  · rw [hb] at hr; cases hr
  · rw [hzero] at ho; cases ho
  · exact h

end

/-! ### A wait that ends on a sample of 1 (R139) -/

/-- Block control reads nothing of what a wait writes for the environment, nor whether a read runs, and leaves it as it is. -/
theorem afterCall_of_bookkeeping (b : BlockPos) (s : State) (o : Oracle) (d : Nat) (f : Fixture) (v : Bool) :
    afterCall b { s with oracle := o, draws := d, fix := f, readRun := v } =
      { afterCall b s with oracle := o, draws := d, fix := f, readRun := v } := by
  cases b with
  | head =>
    cases hop : s.regs.op with
    | poke => simp only [afterCall, hop, callWdata]
    | peek =>
      simp only [afterCall, hop, peekLoop]
      split_ifs <;> rfl
  | close => rfl
  | resend => rfl
  | xfer =>
    cases hop : s.regs.op with
    | poke =>
      simp only [afterCall, hop, pokeLoop, advanceWord_regs]
      split_ifs <;> rfl
    | peek =>
      simp only [afterCall, hop, peekLoop, advanceWord_regs, storeDest_regs]
      split_ifs <;> rfl
  | last => rfl

/-- What the end of a wait leaves alone, whatever it leads to: no pin, no mask, no flag, no memory. -/
structure UntouchedByWait (s t : State) : Prop where
  pins : t.pins = s.pins
  owm : t.owm = s.owm
  owmSaved : t.owmSaved = s.owmSaved
  irqInhibit : t.irqInhibit = s.irqInhibit
  busy : t.busy = s.busy
  mem : t.fix.mem = s.fix.mem
  frame : FrameOfAnAction s t

theorem untouchedByWait_primAfter (b : BlockPos) (p : PrimPos) (s : State) :
    UntouchedByWait s (primAfter b p (waitOver (sampleNWait s).2)) := by
  obtain ⟨o, d, m, n, hover⟩ := waitOver_sampleNWait_eq s
  obtain ⟨q, r, e, v, hafter⟩ := controlOnly_primAfter b p (waitOver (sampleNWait s).2)
  rw [hafter, hover]
  exact ⟨rfl, rfl, rfl, rfl, rfl, rfl, by constructor <;> rfl⟩

/-- The return of WDATA and of RFIN to block control is as without the wait, `v` saying whether a read runs still. -/
theorem afterCall_of_wait_over (b : BlockPos) (s : State) (v : Bool) :
    let t := afterCall b { waitOver (sampleNWait s).2 with readRun := v }
    t.seq = (afterCall b s).seq ∧ t.regs = (afterCall b s).regs ∧ t.dest = (afterCall b s).dest ∧ t.readRun = v := by
  obtain ⟨o, d, m, n, hover⟩ := waitOver_sampleNWait_eq s
  rw [hover]
  intro t
  have ht : t = { afterCall b s with oracle := o, draws := d, fix := { s.fix with waits := m, polled := n }, readRun := v } :=
    afterCall_of_bookkeeping b s o d _ v
  rw [ht]
  exact ⟨rfl, rfl, rfl, rfl⟩

/-- Settles O20: ADDR goes on by itself, WDATA and RFIN through block control. -/
theorem waitEndsOnASampleOfOne : Obligations.WaitEndsOnASampleOfOne := by
  intro b s hb hone
  obtain ⟨o, d, m, n, hover⟩ := waitOver_sampleNWait_eq s
  have hread : (waitOver (sampleNWait s).2).readRun = s.readRun := by rw [hover]
  refine ⟨fun hq a => ?_, fun hq w => ?_, fun hq => ?_⟩
  · have h := untouchedByWait_primAfter b (.addr .wait) s
    have hkept : (waitOver (sampleNWait s).2).regs = s.regs ∧ (waitOver (sampleNWait s).2).dest = s.dest := by
      rw [hover]
      exact ⟨rfl, rfl⟩
    obtain ⟨hregs, hdest⟩ := hkept
    exact ⟨_, (exec_addr_inFlight a hq).trans (congrArg _ (waitStep_of_one hb hone)), rfl, h.pins, h.owm, h.owmSaved,
      h.irqInhibit, hregs, h.busy, hdest, hread, h.mem, h.frame⟩
  · have h := untouchedByWait_primAfter b (.wdata .wait) s
    obtain ⟨hseq, hregs, hdest, hkept⟩ := afterCall_of_wait_over b s (waitOver (sampleNWait s).2).readRun
    exact ⟨_, (exec_wdata_inFlight w hq).trans (congrArg _ (waitStep_of_one hb hone)), hseq, h.pins, h.owm, h.owmSaved,
      h.irqInhibit, hregs, h.busy, hdest, hkept.trans hread, h.mem, h.frame⟩
  · have h := untouchedByWait_primAfter b (.rfin .wait) s
    obtain ⟨hseq, hregs, hdest, hclosed⟩ := afterCall_of_wait_over b s false
    exact ⟨_, (exec_rfin_inFlight hq).trans (congrArg _ (waitStep_of_one hb hone)), hseq, h.pins, h.owm, h.owmSaved,
      h.irqInhibit, hregs, h.busy, hdest, hclosed, h.mem, h.frame⟩

/-! ### A wait that goes on with a sample of 0 (R139, R210) -/

/-- What a sample of 0 takes from the environment (R24, R88; logs 7 and 10). -/
theorem sampleNWait_of_zero {s : State} (hzero : (sampleNWait s).1 = false) :
    (sampleNWait s).2 = { s with
      oracle := if s.env = .oracle then { s.oracle with nWait := s.oracle.nWait.tail } else s.oracle
      draws := if s.env = .oracle ∧ s.oracle.nWait = [] then s.draws + 1 else s.draws
      fix := if s.env = .fixture ∧ scriptDelay s.fix.script s.fix.waits ≠ none then
        { s.fix with polled := s.fix.polled + 1 } else s.fix } := by
  have hresponder : s.env = .oracle ∨ s.env = .fixture := by cases s.env <;> simp
  obtain he | he := hresponder
  · cases hl : s.oracle.nWait with
    | nil =>
      have hsame : { s.oracle with nWait := [] } = s.oracle := by rw [← hl]
      rw [sampleNWait_of_draw he hl]
      simp [he, hsame]
    | cons v vs =>
      rw [sampleNWait_of_lined_up he hl]
      simp [he]
  · cases hd : scriptDelay s.fix.script s.fix.waits with
    | none =>
      rw [sampleNWait_of_infinity he hd, if_neg (by simp [he]), if_neg (by simp [he]), if_neg (by simp [he])]
    | some d =>
      rw [sampleNWait_of_delay he hd] at hzero ⊢
      split at hzero
      · next hlt => simp [he, hlt]
      · cases hzero

/-- Settles O21: the sample's account with the environment, and the count of POLLS. -/
theorem waitStaysOnASampleOfZero : Obligations.WaitStaysOnASampleOfZero := by
  intro b p s hturns hseq hwait hb hzero
  rw [hseq, isWait_run, Option.isSome_iff_exists] at hwait
  obtain ⟨w, hw⟩ := hwait
  rw [step_eq_primStep hturns hseq, primStep_of_wait b s hw, waitStep_of_zero hb hzero, countPoll_eq, sampleNWait_of_zero hzero]

/-! ### A wait that runs into its bound (R139, R212, R214) -/

/-- A bounded wait after `k` samples of 0 of an infinite delay, from its start at `s`: the responder does not count them (log 10). -/
def polledTimes (k : Nat) (s : State) : State := { s with regs := { s.regs with polls := k } }

theorem polledTimes_zero {s : State} (h : s.regs.polls = 0) : polledTimes 0 s = s := by
  rw [polledTimes, ← h]

section
variable {s : State} {b : BlockPos} {p : PrimPos} {w : WaitKind} {bound k : Nat}

theorem boundReached_polledTimes (hbound : s.waitBound = some bound) : boundReached (polledTimes k s) = (k == bound) := by
  simp only [boundReached, polledTimes, hbound]

/-- Below the bound a silent responder leaves one more 0 in POLLS and nothing else (R88). -/
theorem step_polledTimes (hturns : s.turns = []) (hseq : s.seq = .run b p) (hw : primWait p = some w)
    (hbound : s.waitBound = some bound) (he : s.env = .fixture) (hd : scriptDelay s.fix.script s.fix.waits = none)
    (hk : k < bound) : step (polledTimes k s) = .next (polledTimes (k + 1) s) := by
  have hb : boundReached (polledTimes k s) = false := by
    rw [boundReached_polledTimes hbound, beq_eq_false_iff_ne]
    omega
  have hsample : sampleNWait (polledTimes k s) = (false, polledTimes k s) := sampleNWait_of_infinity he hd
  rw [step_eq_primStep (s := polledTimes k s) hturns hseq, primStep_of_wait b _ hw, waitStep_of_zero hb (by rw [hsample]), hsample,
    countPoll_eq]
  simp [polledTimes, hbound]

/-- At the bound the next step is the raise, without a sample (R214; log 16). -/
theorem step_polledTimes_bound (hturns : s.turns = []) (hseq : s.seq = .run b p) (hw : primWait p = some w)
    (hbound : s.waitBound = some bound) : step (polledTimes bound s) = .next (raiseAckTimeout w (polledTimes bound s)) := by
  have hb : boundReached (polledTimes bound s) = true := by rw [boundReached_polledTimes hbound, beq_self_eq_true]
  rw [step_eq_primStep (s := polledTimes bound s) hturns hseq, primStep_of_wait b _ hw, waitStep_of_boundReached hb]

/-- The zeros up to the bound, one step each. -/
theorem runsTo_polledTimes (hturns : s.turns = []) (hseq : s.seq = .run b p) (hw : primWait p = some w)
    (hbound : s.waitBound = some bound) (hpolls : s.regs.polls = 0) (he : s.env = .fixture)
    (hd : scriptDelay s.fix.script s.fix.waits = none) (hk : k ≤ bound) : runsTo k s (polledTimes k s) := by
  induction k with
  | zero =>
    rw [polledTimes_zero hpolls]
    exact runsTo_zero s
  | succ k ih => exact runsTo_snoc (ih (Nat.le_of_succ_le hk)) (step_polledTimes hturns hseq hw hbound he hd hk)

end

/-- Settles O24: the zeros by induction on their number, and the raise after them. -/
theorem timeoutAfterExactlyTheBound : Obligations.TimeoutAfterExactlyTheBound := by
  intro s bound b p w hturns hseq hkind hbound hpolls he hd
  have hw : primWait p = some w := by obtain ⟨rfl, rfl⟩ | ⟨rfl, rfl⟩ | ⟨rfl, rfl⟩ := hkind <;> rfl
  have hzeros : ∀ k, k ≤ bound → runsTo k s (polledTimes k s) := fun k hk =>
    runsTo_polledTimes hturns hseq hw hbound hpolls he hd hk
  have hraise := step_polledTimes_bound hturns hseq hw hbound
  rw [raiseAckTimeout_eq, if_pos (show (polledTimes bound s).env = .fixture from he)] at hraise
  refine ⟨hzeros, ?_⟩
  have hrun := runsTo_snoc (hzeros bound (Nat.le_refl bound)) hraise
  cases w <;> exact hrun

/-! ### The moves of handlers (R141, R219; log 17) -/

/-- No step of the engine takes a move off the schedule. -/
theorem engineStep_turns {s t : State} (h : EngineStep s t) : t.turns = s.turns := by
  cases h with
  | rest => rfl
  | refuse => rfl
  | acceptPoke addr n =>
    obtain ⟨q, w, k, e⟩ := pokeLoop_eq (accept .poke addr n s)
    rw [e]
    rfl
  | acceptPeek => rfl
  | prim b p =>
    obtain hf | ⟨w, e⟩ := primStep_frame_or_timeout b p s
    · exact hf.turns
    · rw [e, raiseAckTimeout_eq]
  | finish => rfl

section
variable {s : State} {w : HandlerWrite} {ts : List Turn}

theorem step_of_handler_inhibited (hturns : s.turns = .handler w :: ts) (hi : s.irqInhibit = true) :
    step s = outcomeOf (engineMove s) := by
  rw [step_eq_outcomeOf, nextMove, hturns]
  exact congrArg outcomeOf (if_pos hi)

theorem step_of_handler_enabled (hturns : s.turns = .handler w :: ts) (hi : s.irqInhibit = false) :
    step s = outcomeOf (handlerMove w { s with turns := ts }) := by
  rw [step_eq_outcomeOf, nextMove, hturns]
  exact congrArg outcomeOf (if_neg (by rw [hi]; exact nofun))

end

/-- Settles O43: inhibited, the step is the engine's and the schedule waits; enabled, it is the handler's write. -/
theorem handlersRunOnlyWhenEnabled : Obligations.HandlersRunOnlyWhenEnabled := by
  intro s w ts hturns
  refine ⟨fun hi => ⟨?_, fun t h => ?_⟩, fun hi => ?_⟩
  · rw [step_of_handler_inhibited hturns hi]
    cases engineMove s <;> rfl
  · rw [step_of_handler_inhibited hturns hi] at h
    exact engineStep_turns (engineStep_of_engineMove h)
  · rw [step_of_handler_enabled hturns hi]
    cases w <;> rfl

/-! ### Single-pin writes (R131, R140) -/

/-- The wait that the reference responder counts: its ordinal, and the zeros it has sampled (R88). -/
def SameWait (f g : Fixture) : Prop := g.waits = f.waits ∧ g.polled = f.polled

theorem SameWait.trans {f g h : Fixture} (hfg : SameWait f g) (hgh : SameWait g h) : SameWait f h := by
  obtain ⟨hwaits, hpolled⟩ := hfg
  obtain ⟨hwaits', hpolled'⟩ := hgh
  exact ⟨hwaits'.trans hwaits, hpolled'.trans hpolled⟩

theorem sameWait_latchBeat (st : Bool) (d : Byte) (f : Fixture) : SameWait f (latchBeat st d f) := by
  unfold latchBeat
  split
  · exact ⟨rfl, rfl⟩
  · split
    · exact ⟨rfl, rfl⟩
    · simp only []
      split <;> exact ⟨rfl, rfl⟩

theorem sameWait_presentByte (f : Fixture) : SameWait f (presentByte f) := by
  unfold presentByte
  simp only []
  split <;> exact ⟨rfl, rfl⟩

theorem sameWait_turnBus (x y : Bool) (f : Fixture) : SameWait f (turnBus x y f) := by
  unfold turnBus
  split
  · exact ⟨rfl, rfl⟩
  · split <;> exact ⟨rfl, rfl⟩

theorem sameWait_latchWires (s : State) : SameWait s.fix (latchWires s).fix := by
  unfold latchWires
  split <;> exact sameWait_latchBeat _ _ _

/-- No change of levels is a sample of nWAIT (R88). -/
theorem sameWait_setPins (q : Pins) (s : State) : SameWait s.fix (setPins q s).fix := by
  have hturn := sameWait_turnBus s.pins.nRD q.nRD s.fix
  unfold setPins watch
  split
  · exact ⟨rfl, rfl⟩
  · simp only []
    split
    · exact hturn.trans (sameWait_latchWires _)
    · split
      · exact hturn.trans (sameWait_presentByte _)
      · exact hturn

/-- A change of levels is the new latches and the responder's reaction. -/
theorem setPins_eq (q : Pins) (s : State) : ∃ f d, setPins q s = { s with pins := q, fix := f, draws := d } :=
  watch_eq s.pins { s with pins := q }

/-- An oracle sees no levels. -/
theorem setPins_of_oracle {q : Pins} {s : State} (h : s.env = .oracle) : setPins q s = { s with pins := q } :=
  watch_of_oracle (s := { s with pins := q }) _ h

/-- A write of the levels that the latches hold is no change. -/
theorem setPins_same (s : State) : setPins s.pins s = s :=
  setPins_of_same_edges rfl rfl

/-- Settles O26: the latch from `pinsWith`, the rest from what a change of levels can do. -/
theorem singlePinWriteChangesOneLatch : Obligations.SinglePinWriteChangesOneLatch := by
  intro q v s
  have hpins : (perform (.pin q v) s).pins = pinsWith q v s.pins := setPins_pins _ _
  refine ⟨hpins.trans (by cases q <;> rfl), ?_, fun _ hkey => setPins_readByte_outside _ hkey, fun hedge _ => ?_, fun hquiet => ?_⟩
  · obtain ⟨f, d, h⟩ := setPins_eq (pinsWith q v s.pins) s
    have hscript := setPins_script (pinsWith q v s.pins) s
    obtain ⟨hwaits, hpolled⟩ := sameWait_setPins (pinsWith q v s.pins) s
    rw [h] at hscript hwaits hpolled
    exact ⟨f, d, by rw [hpins]; exact h, hscript, hwaits, hpolled⟩
  · have hmem : (perform (.pin q v) s).fix.mem = s.fix.mem :=
      perform_mem (fun h => absurd (by cases h; exact ⟨rfl, rfl⟩) hedge) nofun
    rw [hmem]
  · rw [hpins]
    obtain he | rfl := hquiet
    · exact setPins_of_oracle he
    · exact setPins_of_same_edges rfl rfl

/-- Settles O28: the levels written are the levels held. -/
theorem writeOfTheSameLevelIsInvisible : Obligations.WriteOfTheSameLevelIsInvisible := by
  intro q d s
  constructor
  · cases q <;> exact setPins_same s
  · rintro rfl
    exact setPins_same s

/-! ### Direction write, masked write and the critical section (R132, R133, R137, R138) -/

/-- Settles O27: DIR is neither CLK nor nRD, so the responder does not react. -/
theorem directionWriteChangesDirOnly : Obligations.DirectionWriteChangesDirOnly := by
  intro d s
  refine ⟨setPins_of_same_edges rfl rfl, rfl, fun drive => ?_⟩
  cases drive <;> rfl

/-- Settles O29: M_BUS holds DATA and START and no line whose edge the responder looks at. -/
theorem maskedWriteSetsDataAndStart : Obligations.MaskedWriteSetsDataAndStart := by
  intro y v s hmask
  exact mwrite_of_mBus y v hmask

/-- Settles O30: the mask that the exit restores is the one that the enter has saved. -/
theorem criticalSectionRestoresTheMask : Obligations.CriticalSectionRestoresTheMask := by
  intro s
  refine ⟨rfl, fun t hsaved => ?_⟩
  have hmask : t.owmSaved = s.owm := hsaved
  rw [← hmask]
  rfl

end Sys2Proof.Machine
end

section
/-! SUPPORT. One action of a primitive: the byte multiplexer, what an action writes and leaves, and the steps at each position:
O31, O15, O16, O17, O18. -/

namespace Sys2Proof.Machine

/-! ### The byte multiplexer (R161) -/

/-- The four byte writes of a word cover it (R161, R170). -/
theorem putByte_four (w : Word) (b0 b1 b2 b3 : Byte) :
    putByte (putByte (putByte (putByte w 0 b0) 1 b1) 2 b2) 3 b3 = b3 ++ b2 ++ b1 ++ b0 := by
  have hbytes := muxByte_append (putByte (putByte (putByte (putByte w 0 b0) 1 b1) 2 b2) 3 b3)
  simpa [muxByte_putByte_self, muxByte_putByte_other] using hbytes.symm

/-- Settles O31: byte K of a word after a byte write is the byte written or the old one. -/
theorem multiplexerSelectsByteK : Obligations.MultiplexerSelectsByteK := by
  refine ⟨fun _ _ => BitVec.setWidth_ushiftRight_eq_extractLsb, fun _ _ => BitVec.setWidth_ushiftRight_eq_extractLsb,
    fun w k j y hk _ => ?_, putByte_four⟩
  by_cases hjk : j = k
  · rw [if_pos hjk, hjk, muxByte_putByte_self w y (by omega)]
  · rw [if_neg hjk, muxByte_putByte_other w y (by omega) hjk]

/-! ### What an action writes (R130 to R138) -/

/-- OWM after an action, OWM and OWM_SAVED before it being `m` and `saved` (R137, R138). -/
def actionOwm (x : Action) (m saved : PinSet) : PinSet :=
  match x with
  | .writeOwmBus => mBus
  | .restoreOwm => saved
  | _ => m

/-- OWM_SAVED after an action (R137). -/
def actionSaved (x : Action) (m saved : PinSet) : PinSet :=
  match x with
  | .saveOwm => m
  | _ => saved

section
variable {s t : State}

theorem perform_masks (x : Action) (s : State) :
    (perform x s).owm = actionOwm x s.owm s.owmSaved ∧ (perform x s).owmSaved = actionSaved x s.owm s.owmSaved := by
  by_cases h1 : x = .saveOwm
  · subst h1; exact ⟨rfl, rfl⟩
  by_cases h2 : x = .writeOwmBus
  · subst h2; exact ⟨rfl, rfl⟩
  by_cases h3 : x = .restoreOwm
  · subst h3; exact ⟨rfl, rfl⟩
  · have hkept := perform_keeps_masks s h1 h2 h3
    cases x with
    | saveOwm => exact absurd rfl h1
    | writeOwmBus => exact absurd rfl h2
    | restoreOwm => exact absurd rfl h3
    | _ => exact hkept

/-- Through the bus mask no pin outside the bus is written (R133). -/
theorem perform_otherPins {x : Action} (hmask : ∀ b v, x = .mwrite b v → s.owm = mBus) :
    (perform x s).otherPins = s.otherPins := by
  cases x with
  | pin p v => exact setPins_otherPins _ s
  | dir d => exact setPins_otherPins _ s
  | mwrite b v => rw [perform, mwrite_of_mBus b v (hmask b v rfl)]
  | sampleData =>
    obtain ⟨o, d, h⟩ := sampleData_eq s
    simp only [perform, readBeat, h]
  | sampleNWait =>
    obtain ⟨o, d, n, h⟩ := sampleNWait_eq s
    simp only [perform, h]
  | inhibit v => rfl
  | saveOwm => rfl
  | writeOwmBus => rfl
  | restoreOwm => rfl

/-- Only a sample takes from the oracle (R24). -/
theorem perform_oracle {x : Action} (s : State) (h1 : x ≠ .sampleData) (h2 : x ≠ .sampleNWait) :
    (perform x s).oracle = s.oracle := by
  cases x with
  | pin p v => exact setPins_oracle _ s
  | dir d => exact setPins_oracle _ s
  | mwrite b v => exact setPins_oracle _ _
  | sampleData => exact absurd rfl h1
  | sampleNWait => exact absurd rfl h2
  | inhibit v => rfl
  | saveOwm => rfl
  | writeOwmBus => rfl
  | restoreOwm => rfl

/-- Only a data sample writes a working register (R136). -/
theorem perform_regs {x : Action} (s : State) (hx : x ≠ .sampleData) : (perform x s).regs = s.regs := by
  rw [perform_regs_eq, perform_w s hx]

theorem PrimFrame.frameOfAnAction (h : PrimFrame s t) (ho : t.otherPins = s.otherPins) : FrameOfAnAction s t where
  otherPins := ho
  status := h.status
  waitBound := h.waitBound
  rfinClkLow := h.rfinClkLow
  port := h.port
  src := h.src
  env := h.env
  turns := h.turns

/-- What the action `x` of a position writes and leaves on the way from `s` to `t`, whatever follows it: the latches, the masks
and the inhibit flag, and the frame. -/
structure ActionDone (x : Action) (s t : State) : Prop where
  pins : t.pins = actionPins x s.pins
  irqInhibit : t.irqInhibit = actionInhibit x s.irqInhibit
  owmSaved : t.owmSaved = actionSaved x s.owm s.owmSaved
  owm : t.owm = actionOwm x s.owm s.owmSaved
  busy : t.busy = s.busy
  oracle : x ≠ .sampleData → x ≠ .sampleNWait → t.oracle = s.oracle
  frame : FrameOfAnAction s t
  memory : (x = .pin .clk false → s.pins.clk = false ∨ s.pins.nRD = false) → SameMemory s t
  outside : SameMemoryOutsidePointer s t

theorem actionDone_perform {x : Action} (hmask : ∀ y v, x = .mwrite y v → s.owm = mBus) : ActionDone x s (perform x s) := by
  obtain ⟨howm, hsaved⟩ := perform_masks x s
  obtain ⟨houtside, -⟩ := perform_writesUnderPointer x s
  exact
    { pins := perform_pins hmask
      irqInhibit := perform_irqInhibit x s
      owmSaved := hsaved
      owm := howm
      busy := (perform_frame x s).busy
      oracle := perform_oracle s
      frame := (perform_frame x s).frameOfAnAction (perform_otherPins hmask)
      memory := fun h key => congrArg (readByte · key) (perform_mem h hmask)
      outside := houtside }

/-- A wait that is over has taken one sample, and the responder's script is at its next ordinal. -/
theorem actionDone_waitOver (s : State) : ActionDone .sampleNWait s (waitOver (sampleNWait s).2) := by
  obtain ⟨o, d, m, n, h⟩ := waitOver_sampleNWait_eq s
  rw [h]
  exact ⟨rfl, rfl, rfl, rfl, rfl, fun _ h => absurd rfl h, by constructor <;> rfl, fun _ _ => rfl, fun _ _ => rfl⟩

/-- Control that goes on after a position undoes nothing of its action. -/
theorem ActionDone.primAfter {x : Action} {u : State} (h : ActionDone x s u) (b : BlockPos) (p : PrimPos) :
    ActionDone x s (primAfter b p u) := by
  obtain ⟨q, r, d, v, e⟩ := controlOnly_primAfter b p u
  rw [e]
  obtain ⟨hother, hstatus, hbound, hlow, hport, hsrc, henv, hturns⟩ := h.frame
  exact { h with frame := ⟨hother, hstatus, hbound, hlow, hport, hsrc, henv, hturns⟩ }

/-! ### Where control goes after an action -/

/-- Where the loop of POKE goes on (R190). -/
theorem pokeLoop_seq (s : State) : (pokeLoop s).seq =
    if s.regs.i < s.regs.n then
      if s.regs.i == 0 || pageStart s.regs.a then .run .head (.addr .nRD) else .run .xfer (.wdata .nRD)
    else .finish := by
  unfold pokeLoop
  split_ifs <;> rfl

/-- Where the loop of PEEK goes on (R191). -/
theorem peekLoop_seq (s : State) : (peekLoop s).seq =
    if s.regs.i < s.regs.n then
      if s.regs.i != 0 && pageStart s.regs.a then .run .close (.rfin (rfinEntry s.rfinClkLow)) else .run .xfer (.rdata .dir)
    else .run .last (.rfin (rfinEntry s.rfinClkLow)) := by
  unfold peekLoop
  split_ifs <;> rfl

theorem pokeLoop_seq_congr (hi : t.regs.i = s.regs.i) (hn : t.regs.n = s.regs.n) (ha : t.regs.a = s.regs.a) :
    (pokeLoop t).seq = (pokeLoop s).seq := by
  rw [pokeLoop_seq, pokeLoop_seq, hi, hn, ha]

theorem peekLoop_seq_congr (hi : t.regs.i = s.regs.i) (hn : t.regs.n = s.regs.n) (ha : t.regs.a = s.regs.a)
    (hlow : t.rfinClkLow = s.rfinClkLow) : (peekLoop t).seq = (peekLoop s).seq := by
  rw [peekLoop_seq, peekLoop_seq, hi, hn, ha, hlow]

/-- The call that block control makes next depends neither on W nor on K nor on POLLS (R190, R191). -/
theorem afterCall_seq_of_sameTransfer (b : BlockPos) (h : SameTransfer s t) (hlow : t.rfinClkLow = s.rfinClkLow) :
    (afterCall b t).seq = (afterCall b s).seq := by
  obtain ⟨henv, hop, hn, ha, hi, hsrc, hdest⟩ := h
  cases b with
  | head =>
    simp only [afterCall, hop]
    cases s.regs.op with
    | poke => rfl
    | peek => exact peekLoop_seq_congr hi hn ha hlow
  | close => rfl
  | resend => rfl
  | xfer =>
    have hnext : t.regs.i + 1 = s.regs.i + 1 := congrArg (· + 1) hi
    simp only [afterCall, hop]
    cases s.regs.op with
    | poke => exact pokeLoop_seq_congr hnext hn (congrArg nextAddress ha)
    | peek => exact peekLoop_seq_congr hnext hn (congrArg nextAddress ha) hlow
  | last => rfl

/-- The registers after the loop of POKE: the next source word in W, K at 0 (R190). -/
theorem pokeLoop_regs (s : State) : (pokeLoop s).regs =
    if s.regs.i < s.regs.n then
      if s.regs.i == 0 || pageStart s.regs.a then { s.regs with k := 0 }
      else { s.regs with w := srcAt s.src s.regs.i.toNat, k := 0 }
    else s.regs := by
  unfold pokeLoop
  split_ifs <;> rfl

theorem pokeLoop_regs_congr (hregs : t.regs = s.regs) (hsrc : t.src = s.src) : (pokeLoop t).regs = (pokeLoop s).regs := by
  rw [pokeLoop_regs, pokeLoop_regs, hregs, hsrc]

/-- K is 0 again where the loop of PEEK reads another word of the page (R191, R193). -/
theorem peekLoop_regs (s : State) : (peekLoop s).regs = { s.regs with
    k := if s.regs.i < s.regs.n ∧ (s.regs.i = 0 ∨ s.regs.a.extractLsb' 0 8 ≠ 0) then 0 else s.regs.k } := by
  have hpage : (s.regs.i != 0 && pageStart s.regs.a) = true ↔ ¬(s.regs.i = 0 ∨ s.regs.a.extractLsb' 0 8 ≠ 0) := by
    simp [pageStart, BitVec.setWidth_eq_extractLsb']
  unfold peekLoop
  by_cases hmore : s.regs.i < s.regs.n
  · by_cases hread : s.regs.i = 0 ∨ s.regs.a.extractLsb' 0 8 ≠ 0
    · rw [if_pos hmore, if_neg (fun h => hpage.mp h hread), if_pos ⟨hmore, hread⟩]
      rfl
    · rw [if_pos hmore, if_pos (hpage.mpr hread), if_neg (fun h => hread h.2)]
      rfl
  · rw [if_neg hmore, if_neg (fun h => hmore h.1)]
    rfl

theorem peekLoop_regs_congr (hregs : t.regs = s.regs) : (peekLoop t).regs = (peekLoop s).regs := by
  rw [peekLoop_regs, peekLoop_regs, hregs]

/-- PEEK's line with the word in W (R191). -/
theorem afterCall_xfer_peek {s : State} (hop : s.regs.op = .peek) :
    (afterCall .xfer s).dest = destWrite s.dest s.regs.i.toNat s.regs.w ∧
    (afterCall .xfer s).regs = { s.regs with
      a := s.regs.a + 1
      i := s.regs.i + 1
      k := if s.regs.i + 1 < s.regs.n ∧ (s.regs.i + 1 = 0 ∨ (s.regs.a + 1).extractLsb' 0 8 ≠ 0) then 0 else s.regs.k } := by
  rw [afterCall_xfer_of_peek hop]
  exact ⟨(peekLoop_sameTransfer _).dest, peekLoop_regs _⟩

/-- Block control makes the same registers of the same registers and SRC. -/
theorem afterCall_regs_congr (b : BlockPos) (hregs : t.regs = s.regs) (hsrc : t.src = s.src) :
    (afterCall b t).regs = (afterCall b s).regs := by
  have hnext : (advanceWord t).regs = (advanceWord s).regs := by rw [advanceWord_regs, advanceWord_regs, hregs]
  cases b with
  | head =>
    simp only [afterCall, hregs]
    cases s.regs.op with
    | poke => simp only [callWdata_regs, hregs, hsrc]
    | peek => exact peekLoop_regs_congr hregs
  | close => simp only [afterCall, callAddr_regs, hregs]
  | resend => simp only [afterCall, callRdata_regs, hregs]
  | xfer =>
    simp only [afterCall, hregs]
    cases s.regs.op with
    | poke => exact pokeLoop_regs_congr hnext hsrc
    | peek => exact peekLoop_regs_congr hnext
  | last => exact hregs

/-- Block control writes the same word to the same place of DEST. -/
theorem afterCall_dest_congr (b : BlockPos) (hregs : t.regs = s.regs) (hdest : t.dest = s.dest) :
    (afterCall b t).dest = (afterCall b s).dest := by
  by_cases hb : b = .xfer
  · subst hb
    cases hop : s.regs.op with
    | poke =>
      rw [afterCall_xfer_of_poke (by rw [hregs]; exact hop), afterCall_xfer_of_poke hop, (pokeLoop_sameTransfer _).dest,
        (pokeLoop_sameTransfer _).dest]
      exact hdest
    | peek =>
      obtain ⟨ht, -⟩ := afterCall_xfer_peek (s := t) (by rw [hregs]; exact hop)
      obtain ⟨hs, -⟩ := afterCall_xfer_peek hop
      rw [ht, hs, hregs, hdest]
  · rw [(afterCall_sameTransfer t hb).dest, (afterCall_sameTransfer s hb).dest, hdest]

/-- What control reads is as before: the registers and the rest of the transfer, whether a read runs, and the configuration. -/
structure ControlKept (s u : State) : Prop where
  same : SameTransfer s u
  regs : u.regs = s.regs
  readRun : u.readRun = s.readRun
  waitBound : u.waitBound = s.waitBound
  rfinClkLow : u.rfinClkLow = s.rfinClkLow

/-- Every action but a data sample keeps it. -/
theorem controlKept_perform {x : Action} (s : State) (hx : x ≠ .sampleData) : ControlKept s (perform x s) where
  same := perform_sameTransfer x s
  regs := perform_regs s hx
  readRun := perform_readRun x s
  waitBound := (perform_frame x s).waitBound
  rfinClkLow := (perform_frame x s).rfinClkLow

theorem controlKept_waitOver (s : State) : ControlKept s (waitOver (sampleNWait s).2) := by
  obtain ⟨o, d, m, n, h⟩ := waitOver_sampleNWait_eq s
  rw [h]
  exact ⟨by constructor <;> rfl, rfl, rfl, rfl, rfl⟩

section
variable {u : State} {p : PrimPos}

/-- POLLS after a position: the head of a wait clears it where it exists (R139). -/
def nextPolls (s : State) (p : PrimPos) : Nat :=
  if entersWait p = true ∧ s.waitBound ≠ none then 0 else s.regs.polls

/-- Inside a call, after a position: of the registers K and POLLS alone may change, and DEST does not. -/
structure StaysInCall (b : BlockPos) (p : PrimPos) (s t : State) : Prop where
  seq : t.seq = .run b (nextPos s.regs.k p)
  dest : t.dest = s.dest
  regs : t.regs = { s.regs with k := nextK s.regs.k p, polls := nextPolls s p }
  readRun : t.readRun = (p == .rdata .dir || s.readRun)

/-- After the last position of a primitive: block control has gone on as from the state `s`. -/
structure ReturnsFromCall (b : BlockPos) (p : PrimPos) (s t : State) : Prop where
  seq : t.seq = (afterCall b s).seq
  dest : t.dest = (afterCall b s).dest
  regs : t.regs = (afterCall b s).regs
  readRun : t.readRun = readRunAfter s.readRun p

theorem ControlKept.stays (h : ControlKept s u) (b : BlockPos) (hr : returnsAt s.regs.k p = false) :
    StaysInCall b p s (primAfter b p u) := by
  rw [primAfter_of_not_returnsAt b _ (by rw [h.regs]; exact hr)]
  refine ⟨?_, h.same.dest, ?_, ?_⟩
  · rw [stayInCall, h.regs]
  · simp only [stayInCall, h.regs, h.waitBound, nextPolls]
    cases entersWait p <;> cases s.waitBound <;> rfl
  · rw [stayInCall, h.readRun]

theorem ControlKept.returns (h : ControlKept s u) (b : BlockPos) (hr : returnsAt s.regs.k p = true) :
    ReturnsFromCall b p s (primAfter b p u) := by
  obtain ⟨q, r, d, e⟩ := afterCall_eq b { u with readRun := readRunAfter u.readRun p }
  have hsame : SameTransfer s { u with readRun := readRunAfter u.readRun p } := h.same.trans (by constructor <;> rfl)
  rw [primAfter_of_returnsAt b _ (by rw [h.regs]; exact hr)]
  refine ⟨afterCall_seq_of_sameTransfer b hsame h.rfinClkLow, afterCall_dest_congr b h.regs hsame.dest,
    afterCall_regs_congr b h.regs hsame.src, ?_⟩
  rw [e]
  exact congrArg (readRunAfter · p) h.readRun

end

end

/-! ### The positions of ADDR (R162) -/

theorem nextK_addr (k : BitVec 3) (p : AddrPos) : nextK k (.addr p) = if p = .lo ∧ k.toNat < 4 then k + 1 else k := by
  cases p with
  | lo => simp [nextK]
  | _ => rfl

theorem nextPolls_addr (s : State) (p : AddrPos) :
    nextPolls s (.addr p) = if p = .dir ∧ s.waitBound ≠ none then 0 else s.regs.polls := by
  simp only [nextPolls, entersWait, beq_iff_eq]

/-- Where ADDR writes through the mask and where it lowers CLK; away from its wait it takes no sample. -/
theorem addrAction_kind {a : Address} {k : BitVec 3} {p : AddrPos} (hp : p ≠ .wait) :
    (∀ y v, addrAction a k p = .mwrite y v → p = .drv) ∧ (addrAction a k p = .pin .clk false → p = .lo) ∧
      addrAction a k p ≠ .sampleData ∧ addrAction a k p ≠ .sampleNWait := by
  cases p <;> simp_all [addrAction]

theorem addrStep_of_action (a : Address) (b : BlockPos) {p : AddrPos} (s : State) (hp : p ≠ .wait) :
    addrStep a b p s = primAfter b (.addr p) (perform (addrAction a s.regs.k p) s) := if_neg hp

theorem addrStep_stays {a : Address} {p : AddrPos} (b : BlockPos) (s : State) (hp : p ≠ .wait) (hend : p ≠ .cx2) :
    StaysInCall b (.addr p) s (addrStep a b p s) := by
  obtain ⟨-, -, hdata, -⟩ := addrAction_kind (a := a) (k := s.regs.k) hp
  rw [addrStep_of_action a b s hp]
  exact (controlKept_perform s hdata).stays b (by simpa [returnsAt] using hend)

theorem addrStep_returns (a : Address) (b : BlockPos) (s : State) :
    ReturnsFromCall b (.addr .cx2) s (addrStep a b .cx2 s) :=
  (controlKept_perform s (x := .inhibit false) nofun).returns b rfl

/-- Settles O15: the action of the position, and control inside the call or, after `cx2`, block control's. -/
theorem addrPerformsThePositionsAction : Obligations.AddrPerformsThePositionsAction := by
  intro a b p s hq hp hmask
  obtain ⟨hmwrite, hclk, hdata, hwait⟩ := addrAction_kind (a := a) (k := s.regs.k) hp
  have hdone := (actionDone_perform (s := s) fun y v h => hmask (hmwrite y v h)).primAfter b (.addr p)
  rw [← addrStep_of_action a b s hp] at hdone
  have hstay := addrStep_stays (a := a) b s hp
  have hreturn := addrStep_returns a b s
  refine ⟨_, exec_addr_inFlight a hq, hdone.pins.trans ?_, hdone.irqInhibit.trans ?_, hdone.owmSaved.trans ?_,
    hdone.owm.trans ?_, ?_, hdone.busy, fun hend => ?_, ?_, ?_, hdone.oracle hdata hwait, hdone.frame,
    fun hlo => hdone.memory fun h => absurd (hclk h) hlo, hdone.outside⟩
  · cases p with
    | drv => simp only [addrAction, actionPins, ← byteOfAddress_eq_muxByte, byteOfAddress]
    | _ => rfl
  · cases p <;> rfl
  · cases p <;> rfl
  · cases p <;> rfl
  · cases p with
    | cx2 => exact hreturn.seq
    | wait => exact absurd rfl hp
    | lo =>
      rw [(hstay nofun).seq]
      simp only [nextPos, addrNext]
      split <;> rfl
    | _ => exact (hstay nofun).seq
  · have hregs := (hstay hend).regs
    rw [nextK_addr, nextPolls_addr] at hregs
    exact ⟨(hstay hend).dest, hregs⟩
  · rintro rfl
    exact ⟨hreturn.dest, hreturn.regs⟩
  · cases p with
    | cx2 => exact hreturn.readRun
    | _ => exact (hstay nofun).readRun

/-! ### The positions of WDATA (R166) -/

theorem nextK_wdata (k : BitVec 3) (p : WdataPos) : nextK k (.wdata p) = if p = .lo ∧ k.toNat < 3 then k + 1 else k := by
  cases p with
  | lo => simp [nextK]
  | _ => rfl

theorem nextPolls_wdata (s : State) (p : WdataPos) :
    nextPolls s (.wdata p) = if p = .cx2 ∧ s.waitBound ≠ none then 0 else s.regs.polls := by
  simp only [nextPolls, entersWait, beq_iff_eq]

/-- Where WDATA writes through the mask and where it lowers CLK; away from its wait it takes no sample. -/
theorem wdataAction_kind {w : Word} {k : BitVec 3} {p : WdataPos} (hp : p ≠ .wait) :
    (∀ y v, wdataAction w k p = .mwrite y v → p = .drv) ∧ (wdataAction w k p = .pin .clk false → p = .lo) ∧
      wdataAction w k p ≠ .sampleData ∧ wdataAction w k p ≠ .sampleNWait := by
  cases p <;> simp_all [wdataAction]

theorem wdataStep_of_action (w : Word) (b : BlockPos) {p : WdataPos} (s : State) (hp : p ≠ .wait) :
    wdataStep w b p s = primAfter b (.wdata p) (perform (wdataAction w s.regs.k p) s) := if_neg hp

/-- The byte that completes the word in the responder's shift register (R86). -/
theorem LastByteOf.word {w : Word} {s : State} (h : LastByteOf w s) : putByte s.fix.sh 3 (w.extractLsb' 24 8) = w := by
  have hbytes : lowBytesEq 3 s.fix.sh w = true := by
    rw [lowBytesEq_iff]
    intro j hj
    apply BitVec.eq_of_getLsbD_eq
    intro i hi
    have hbit := congrArg (·.getLsbD (8 * j + i)) h.bytes
    simp only [BitVec.getLsbD_extractLsb', Nat.zero_add, show 8 * j + i < 24 by omega, decide_true, Bool.true_and] at hbit
    rw [getLsbD_muxByte, getLsbD_muxByte, hbit]
  have hlast : w.extractLsb' 24 8 = muxByte w 3 := byteOfWord_eq_muxByte w 3
  rw [hlast]
  exact eq_of_lowBytesEq (k := 4) (by decide) (lowBytesEq_putByte (by decide) hbytes)

/-- With the falling edge of the last beat the word is stored at the pointer, which moves on inside the page (R86). -/
theorem LastByteOf.stored {w : Word} {s : State} (h : LastByteOf w s) :
    (perform (.pin .clk false) s).fix = { s.fix with
      sh := w
      mem := writeWord s.fix.mem s.fix.ptr w
      ptr := advancePtr s.fix.ptr
      wcnt := 0 } := by
  have hlevels := h.levels
  rw [perform_clk_of_latching_edge h.env (by rw [hlevels]) (by rw [hlevels]) (by rw [hlevels]) h.drive, hlevels]
  show latchBeat false (w.extractLsb' 24 8) s.fix = _
  rw [latchBeat_of_lastData h.abytes h.wcnt, h.word]

/-- Settles O16: the action of the position; control stays inside the call. -/
theorem wdataPerformsThePositionsAction : Obligations.WdataPerformsThePositionsAction := by
  intro w b p s hq hp hmask
  obtain ⟨hmwrite, hclk, hdata, hwait⟩ := wdataAction_kind (w := w) (k := s.regs.k) hp
  have hstep := wdataStep_of_action w b s hp
  have hdone := (actionDone_perform (s := s) fun y v h => hmask (hmwrite y v h)).primAfter b (.wdata p)
  have hstay := (controlKept_perform s hdata).stays (p := .wdata p) b (by simpa [returnsAt] using hp)
  rw [← hstep] at hdone hstay
  refine ⟨_, exec_wdata_inFlight w hq, hdone.pins.trans ?_, hdone.irqInhibit.trans ?_, hdone.owmSaved.trans ?_,
    hdone.owm.trans ?_, hstay.seq.trans ?_, hdone.busy, hstay.dest, ?_, ?_, hstay.readRun, hdone.oracle hdata hwait, hdone.frame,
    fun hlo => hdone.memory fun h => absurd (hclk h) hlo, hdone.outside⟩
  · cases p with
    | drv => simp only [wdataAction, actionPins, ← byteOfWord_eq_muxByte, byteOfWord]
    | _ => rfl
  · cases p <;> rfl
  · cases p <;> rfl
  · cases p <;> rfl
  · cases p with
    | wait => exact absurd rfl hp
    | lo =>
      simp only [nextPos, wdataNext]
      split <;> rfl
    | _ => rfl
  · have hregs := hstay.regs
    rw [nextK_wdata, nextPolls_wdata] at hregs
    exact hregs
  · rintro rfl hlast
    have hfix : (wdataStep w b .lo s).fix = (perform (.pin .clk false) s).fix := by rw [hstep, primAfter_fix]; rfl
    have hlow : s.fix.ptr.setWidth 8 = s.fix.ptr.extractLsb' 0 8 := BitVec.setWidth_eq_extractLsb' (by decide)
    rw [hfix, hlast.stored, ← hlow]
    exact ⟨readWord_writeWord_self s.fix.ptr w hlast.memory, rfl, rfl⟩

/-! ### The positions of RDATA (R170) -/

/-- RDATA writes through no mask, lowers CLK at one position and samples DATA at one. -/
theorem rdataAction_kind (p : RdataPos) :
    (∀ y v, rdataAction p ≠ .mwrite y v) ∧ (rdataAction p = .pin .clk false → p = .lo) ∧
      (p ≠ .smp → rdataAction p ≠ .sampleData) ∧ rdataAction p ≠ .sampleNWait := by
  cases p <;> simp [rdataAction]

theorem rdataStep_done (b : BlockPos) (p : RdataPos) (s : State) : ActionDone (rdataAction p) s (rdataStep b p s) := by
  obtain ⟨hmwrite, -⟩ := rdataAction_kind p
  exact (actionDone_perform fun y v h => absurd h (hmwrite y v)).primAfter b (.rdata p)

theorem rdataStep_stays {p : RdataPos} (b : BlockPos) (s : State) (hp : p ≠ .smp) :
    StaysInCall b (.rdata p) s (rdataStep b p s) := by
  obtain ⟨-, -, hdata, -⟩ := rdataAction_kind p
  exact (controlKept_perform s (hdata hp)).stays b (by simpa [returnsAt] using fun h => absurd h hp)

/-- W with the byte sampled at place K. -/
def sampledWord (s : State) : Word := putByte s.regs.w s.regs.k.toNat (sampleData s).1

/-- What a data sample makes of the state: byte K of W, and the environment's side. -/
theorem perform_sampleData_eq (s : State) : ∃ o d,
    perform .sampleData s = { s with oracle := o, draws := d, regs := { s.regs with w := sampledWord s } } := by
  obtain ⟨o, d, h⟩ := sampleData_eq s
  exact ⟨o, d, by simp only [perform, readBeat, h, sampledWord]⟩

/-- A sample before the last: K counts on, and the next beat begins. -/
theorem rdataStep_smp_of_lt (b : BlockPos) (s : State) (hk : s.regs.k.toNat < 3) :
    let t := rdataStep b .smp s
    t.seq = .run b (.rdata .lo) ∧ t.regs = { s.regs with w := sampledWord s, k := s.regs.k + 1 } ∧ t.dest = s.dest ∧
      t.readRun = s.readRun := by
  obtain ⟨o, d, h⟩ := perform_sampleData_eq s
  simp only [rdataStep, rdataAction, h, rdataAfter, if_pos hk, and_self]

/-- The last sample: block control goes on with the word. -/
theorem rdataStep_smp_of_le (b : BlockPos) (s : State) (hk : 3 ≤ s.regs.k.toNat) :
    let t := rdataStep b .smp s
    let u := { s with regs := { s.regs with w := sampledWord s } }
    t.seq = (afterCall b s).seq ∧ t.regs = (afterCall b u).regs ∧ t.dest = (afterCall b u).dest ∧ t.readRun = s.readRun := by
  obtain ⟨o, d, h⟩ := perform_sampleData_eq s
  simp only [rdataStep, rdataAction, h, rdataAfter, if_neg (Nat.not_lt.mpr hk)]
  refine ⟨afterCall_seq_of_sameTransfer b (by constructor <;> rfl) rfl, afterCall_regs_congr b rfl rfl,
    afterCall_dest_congr b rfl rfl, ?_⟩
  obtain ⟨q, r, e, hafter⟩ := afterCall_eq b { s with oracle := o, draws := d, regs := { s.regs with w := sampledWord s } }
  rw [hafter]

/-- Settles O17: the pin writes by their positions, and the sample by the beat it stands in. -/
theorem rdataPerformsThePositionsAction : Obligations.RdataPerformsThePositionsAction := by
  intro b p s hq
  obtain ⟨-, hclk, hdata, hwait⟩ := rdataAction_kind p
  have hdone := rdataStep_done b p s
  have hstay := rdataStep_stays (p := p) b s
  have hnext := rdataStep_smp_of_lt b s
  have hlast := rdataStep_smp_of_le b s
  refine ⟨_, exec_rdata_inFlight hq, hdone.pins.trans ?_, hdone.irqInhibit.trans ?_, hdone.owm.trans ?_, hdone.owmSaved.trans ?_,
    hdone.frame, fun hp => ?_, ?_, ?_, ?_, ?_, fun hquiet => ?_, hdone.outside⟩
  · cases p <;> rfl
  · cases p <;> rfl
  · cases p <;> rfl
  · cases p <;> rfl
  · have hin := hstay hp
    refine ⟨hdone.busy, hin.dest, ?_, hdone.oracle (hdata hp) hwait, ?_⟩
    · rw [hin.regs]
      cases p with
      | smp => exact absurd rfl hp
      | _ => rfl
    · rw [hin.readRun, Bool.or_comm]
      cases p <;> rfl
  · rintro rfl hk
    obtain ⟨-, hregs, hdest, hrun⟩ := hnext hk
    exact ⟨hregs, hdone.busy, hdest, hrun⟩
  · rintro rfl hk
    obtain ⟨-, hregs, hdest, hrun⟩ := hlast hk
    exact ⟨hregs, hdest, hdone.busy, hrun⟩
  · rintro rfl hk rfl hop
    obtain ⟨-, hregs, hdest, -⟩ := hlast hk
    obtain ⟨hword, hcount⟩ := afterCall_xfer_peek (s := { s with regs := { s.regs with w := sampledWord s } }) hop
    exact ⟨hdest.trans hword, hregs.trans hcount⟩
  · cases p with
    | smp =>
      by_cases hk : s.regs.k.toNat < 3
      · obtain ⟨hseq, -⟩ := hnext hk
        simpa only [if_pos hk] using hseq
      · obtain ⟨hseq, -⟩ := hlast (Nat.not_lt.mp hk)
        simpa only [if_neg hk] using hseq
    | _ => exact (hstay nofun).seq
  · exact hdone.memory fun h => .inr (hquiet.resolve_right (not_not_intro (hclk h)))

/-! ### The positions of RFIN (R174) -/

theorem nextPolls_rfin (s : State) (p : RfinPos) :
    nextPolls s (.rfin p) = if p = .dir ∧ s.waitBound ≠ none then 0 else s.regs.polls := by
  simp only [nextPolls, entersWait, beq_iff_eq]

/-- Where RFIN lowers CLK; it writes through no mask, and away from its wait it takes no sample. -/
theorem rfinAction_kind {p : RfinPos} (hp : p ≠ .wait) :
    (∀ y v, rfinAction p ≠ .mwrite y v) ∧ (rfinAction p = .pin .clk false → p = .clk) ∧
      rfinAction p ≠ .sampleData ∧ rfinAction p ≠ .sampleNWait := by
  cases p <;> simp_all [rfinAction]

theorem rfinStep_of_action (b : BlockPos) {p : RfinPos} (s : State) (hp : p ≠ .wait) :
    rfinStep b p s = primAfter b (.rfin p) (perform (rfinAction p) s) := if_neg hp

/-- Settles O18: the action of the position; control stays inside the call. -/
theorem rfinPerformsThePositionsAction : Obligations.RfinPerformsThePositionsAction := by
  intro b p s hq hp
  obtain ⟨hmwrite, hclk, hdata, hwait⟩ := rfinAction_kind hp
  have hstep := rfinStep_of_action b s hp
  have hdone := (actionDone_perform (s := s) fun y v h => absurd h (hmwrite y v)).primAfter b (.rfin p)
  have hstay := (controlKept_perform s hdata).stays (p := .rfin p) b (by simpa [returnsAt] using hp)
  rw [← hstep] at hdone hstay
  refine ⟨_, exec_rfin_inFlight hq, hdone.pins.trans ?_, hdone.irqInhibit.trans ?_, hdone.owm.trans ?_, hdone.owmSaved.trans ?_,
    hdone.frame, hdone.busy, hstay.dest, hstay.readRun, hdone.oracle hdata hwait, ?_, hstay.seq.trans ?_, fun hquiet => ?_,
    hdone.outside⟩
  · cases p <;> rfl
  · cases p <;> rfl
  · cases p <;> rfl
  · cases p <;> rfl
  · have hregs := hstay.regs
    rw [nextPolls_rfin] at hregs
    exact hregs
  · cases p with
    | wait => exact absurd rfl hp
    | _ => rfl
  · exact hdone.memory fun h => .inr (hquiet.resolve_right (not_not_intro (hclk h)))

end Sys2Proof.Machine
end

section
/-! SUPPORT. A whole primitive with nWAIT at 1: what the engine itself holds during a call, run beside the machine: O47, O48,
O50; and RDATA on the oracle responder, beat by beat: O49. -/

namespace Sys2Proof.Machine

/-! ### The sample of nWAIT that lies ahead (R24, R88) -/

section
variable {s t : State}

/-- The answer to a sample of nWAIT depends on the oracle's side, or on the responder's script and its place in it. -/
theorem sampleNWait_fst_congr (he : t.env = s.env) (horacle : s.env = .oracle → t.oracle = s.oracle ∧ t.draws = s.draws)
    (hscript : t.fix.script = s.fix.script) (hwait : SameWait s.fix t.fix) : (sampleNWait t).1 = (sampleNWait s).1 := by
  obtain ⟨hwaits, hpolled⟩ := hwait
  unfold sampleNWait
  rw [he]
  cases hs : s.env with
  | oracle =>
    obtain ⟨ho, hd⟩ := horacle hs
    rw [ho, hd]
    cases s.oracle.nWait <;> rfl
  | fixture =>
    rw [hscript, hwaits, hpolled]
    cases scriptDelay s.fix.script s.fix.waits with
    | none => rfl
    | some d =>
      simp only []
      split_ifs <;> rfl

/-- No action but a sample of nWAIT counts for the wait (R88). -/
theorem sameWait_perform {x : Action} (s : State) (hx : x ≠ .sampleNWait) : SameWait s.fix (perform x s).fix := by
  cases x with
  | pin p v => exact sameWait_setPins _ s
  | dir d => exact sameWait_setPins _ s
  | mwrite b v => exact sameWait_setPins _ { s with otherPins := maskedOthers s.owm s.otherPins }
  | sampleData =>
    obtain ⟨o, d, h⟩ := perform_sampleData_eq s
    rw [h]
    exact ⟨rfl, rfl⟩
  | sampleNWait => exact absurd rfl hx
  | _ => exact ⟨rfl, rfl⟩

/-- An oracle is asked only by a sample. -/
theorem perform_draws_of_oracle {x : Action} (he : s.env = .oracle) (h1 : x ≠ .sampleData) (h2 : x ≠ .sampleNWait) :
    (perform x s).draws = s.draws := by
  cases x with
  | pin p v => rw [perform, writePin, setPins_of_oracle he]
  | dir d => rw [perform, writeDir, setPins_of_oracle he]
  | mwrite b v => rw [perform, mwrite, setPins_of_oracle (s := { s with otherPins := maskedOthers s.owm s.otherPins }) he]
  | sampleData => exact absurd rfl h1
  | sampleNWait => exact absurd rfl h2
  | _ => rfl

/-- An action that samples nothing, and control after it, leave the answer to the next sample of nWAIT as it is. -/
theorem sampleNWait_primAfter_perform {x : Action} (b : BlockPos) (p : PrimPos) (s : State) (h1 : x ≠ .sampleData)
    (h2 : x ≠ .sampleNWait) : (sampleNWait (primAfter b p (perform x s))).1 = (sampleNWait s).1 := by
  obtain ⟨q, r, d, v, e⟩ := controlOnly_primAfter b p (perform x s)
  rw [e]
  exact sampleNWait_fst_congr (perform_frame x s).env
    (fun he => ⟨perform_oracle s h1 h2, perform_draws_of_oracle he h1 h2⟩) (perform_script x s) (sameWait_perform s h2)

end

/-! ### The call as the engine sees it -/

/-- What the engine itself holds during a call: the position, K, the latches, the masks and the inhibit flag. The responder does not
write any of it, so a call's course can be followed in it alone. -/
structure CallView where
  pos : PrimPos
  k : BitVec 3
  pins : Pins
  owm : PinSet
  owmSaved : PinSet
  irqInhibit : Bool

/-- The action of the position, A and W being `r`'s. -/
def CallView.action (r : Regs) (c : CallView) : Action := primAction { r with k := c.k } c.pos

/-- The view once that action is done, the position still the same. -/
def CallView.acted (r : Regs) (c : CallView) : CallView :=
  { c with
    pins := actionPins (c.action r) c.pins
    owm := actionOwm (c.action r) c.owm c.owmSaved
    owmSaved := actionSaved (c.action r) c.owm c.owmSaved
    irqInhibit := actionInhibit (c.action r) c.irqInhibit }

/-- The bus mask is in OWM wherever the position needs it (R133). -/
def CallView.maskOk (c : CallView) : Bool := !primMasked c.pos || decide (c.owm = mBus)

/-- The view at the next position of the call; none where the primitive returns, or where the bus mask is missing. -/
def CallView.next (r : Regs) (c : CallView) : Option CallView :=
  if c.maskOk && !returnsAt c.k c.pos then some { c.acted r with pos := nextPos c.k c.pos, k := nextK c.k c.pos } else none

/-- The view after `n` positions of the call. -/
def CallView.run (r : Regs) : Nat → CallView → Option CallView
  | 0, c => some c
  | n + 1, c => (c.next r).bind (CallView.run r n)

/-- The view of a state at a position. -/
def viewAt (p : PrimPos) (s : State) : CallView :=
  { pos := p, k := s.regs.k, pins := s.pins, owm := s.owm, owmSaved := s.owmSaved, irqInhibit := s.irqInhibit }

/-- A position from which the call still has its wait before it, or stands at it. -/
def waitAhead : PrimPos → Bool
  | .addr p => p == .nRD || p == .start || p == .dir || p == .wait
  | .wdata _ => true
  | .rdata _ => false
  | .rfin _ => true

theorem waitAhead_of_wait {p : PrimPos} {w : WaitKind} (h : primWait p = some w) : waitAhead p = true := by
  cases p with
  | addr p =>
    cases p with
    | wait => rfl
    | _ => cases h
  | rdata p => cases h
  | _ => rfl

/-- A call has one wait: with it still ahead after a position, that position is before it. -/
theorem waitAhead_nextPos {k : BitVec 3} {p : PrimPos} (hr : returnsAt k p = false) (h : waitAhead (nextPos k p) = true) :
    waitAhead p = true ∧ primWait p = none := by
  cases p with
  | addr p =>
    cases p with
    | lo => simp only [nextPos, addrNext] at h; split at h <;> cases h
    | nRD => exact ⟨rfl, rfl⟩
    | start => exact ⟨rfl, rfl⟩
    | dir => exact ⟨rfl, rfl⟩
    | _ => cases h
  | wdata p =>
    cases p with
    | wait => cases hr
    | _ => exact ⟨rfl, rfl⟩
  | rdata p => cases h
  | rfin p =>
    cases p with
    | wait => cases hr
    | _ => exact ⟨rfl, rfl⟩

theorem primAction_ne_sampleNWait (r : Regs) {p : PrimPos} (h : primWait p = none) : primAction r p ≠ .sampleNWait := by
  cases p with
  | addr p =>
    cases p with
    | wait => cases h
    | _ => exact nofun
  | wdata p =>
    cases p with
    | wait => cases h
    | _ => exact nofun
  | rdata p => cases p <;> exact nofun
  | rfin p =>
    cases p with
    | wait => cases h
    | _ => exact nofun

theorem nextPos_ne_rdata {k : BitVec 3} {p : PrimPos} (h : ∀ q, p ≠ .rdata q) (q : RdataPos) : nextPos k p ≠ .rdata q := by
  cases p with
  | rdata q' => exact absurd rfl (h q')
  | _ => exact nofun

/-- The call of a writing primitive or of RFIN at the line `b`, begun in `s₀`, stands in `s` where the view `c` has it; the
engine is to move, and if the wait is still ahead nWAIT will be sampled as 1. -/
structure Follows (s₀ : State) (b : BlockPos) (c : CallView) (s : State) : Prop where
  seq : s.seq = .run b c.pos
  regs : s.regs = { s₀.regs with k := c.k, polls := s.regs.polls }
  pins : s.pins = c.pins
  owm : s.owm = c.owm
  owmSaved : s.owmSaved = c.owmSaved
  irqInhibit : s.irqInhibit = c.irqInhibit
  dest : s.dest = s₀.dest
  readRun : s.readRun = s₀.readRun
  frame : FrameOfAnAction s₀ s
  writes : ∀ q, c.pos ≠ .rdata q
  turns : s.turns = []
  bound : boundOk s.waitBound = true
  inTime : WaitInTime s
  ready : waitAhead c.pos = true → (sampleNWait s).1 = true

theorem FrameOfAnAction.trans {s t u : State} (h : FrameOfAnAction s t) (h' : FrameOfAnAction t u) : FrameOfAnAction s u where
  otherPins := h'.otherPins.trans h.otherPins
  status := h'.status.trans h.status
  waitBound := h'.waitBound.trans h.waitBound
  rfinClkLow := h'.rfinClkLow.trans h.rfinClkLow
  port := h'.port.trans h.port
  src := h'.src.trans h.src
  env := h'.env.trans h.env
  turns := h'.turns.trans h.turns

section
variable {s₀ s : State} {b : BlockPos} {c c' : CallView}

theorem Follows.action (h : Follows s₀ b c s) : primAction s.regs c.pos = c.action s₀.regs := by
  rw [h.regs, CallView.action]
  cases c.pos <;> rfl

theorem Follows.k (h : Follows s₀ b c s) : s.regs.k = c.k := by
  rw [h.regs]

theorem Follows.sameTransfer (h : Follows s₀ b c s) : SameTransfer s₀ s where
  env := h.frame.env
  op := by rw [h.regs]
  n := by rw [h.regs]
  a := by rw [h.regs]
  i := by rw [h.regs]
  src := h.frame.src
  dest := h.dest

/-- At the start of a call there is nothing to follow yet. -/
theorem follows_start {p : PrimPos} (hturns : s.turns = []) (hseq : s.seq = .run b p) (hp : isWait (.run b p) = false)
    (hwrites : ∀ q, p ≠ .rdata q) (hbound : boundOk s.waitBound = true) (hready : (sampleNWait s).1 = true) :
    Follows s b (viewAt p s) s where
  seq := hseq
  regs := rfl
  pins := rfl
  owm := rfl
  owmSaved := rfl
  irqInhibit := rfl
  dest := rfl
  readRun := rfl
  frame := by constructor <;> rfl
  writes := hwrites
  turns := hturns
  bound := hbound
  inTime h := by rw [hseq, hp] at h; cases h
  ready _ := hready

/-- The step does the action that the view has, or ends the wait, and goes on. -/
theorem Follows.step (h : Follows s₀ b c s) (hmask : c.maskOk = true) : ∃ u,
    step s = .next (primAfter b c.pos u) ∧ ActionDone (c.action s₀.regs) s u ∧ ControlKept s u ∧
      (primWait c.pos = none → (sampleNWait (primAfter b c.pos u)).1 = (sampleNWait s).1) := by
  have hdata : c.action s₀.regs ≠ .sampleData := primAction_ne_sampleData h.writes
  rw [step_eq_primStep h.turns h.seq]
  cases hw : primWait c.pos with
  | none =>
    have hnwait : c.action s₀.regs ≠ .sampleNWait := primAction_ne_sampleNWait _ hw
    rw [primStep_of_action b s hw, h.action]
    refine ⟨_, rfl, actionDone_perform fun y v hx => ?_, controlKept_perform s hdata,
      fun _ => sampleNWait_primAfter_perform b c.pos s hdata hnwait⟩
    have hmasked : primMasked c.pos = true := primMasked_of_mwrite hx
    rw [h.owm]
    simpa [CallView.maskOk, hmasked] using hmask
  | some w =>
    have hb : boundReached s = false := h.inTime (by rw [h.seq, isWait_run, hw]; rfl)
    obtain ⟨hx, -⟩ := wait_action { s₀.regs with k := c.k } hw
    rw [primStep_of_wait b s hw, waitStep_of_one hb (h.ready (waitAhead_of_wait hw)), CallView.action, hx]
    exact ⟨_, rfl, actionDone_waitOver s, controlKept_waitOver s, nofun⟩

/-- Inside the call the machine and the view go on together. -/
theorem Follows.next (h : Follows s₀ b c s) (hn : c.next s₀.regs = some c') :
    ∃ t, Machine.step s = .next t ∧ Follows s₀ b c' t := by
  obtain ⟨⟨hmask, hr⟩, rfl⟩ : (c.maskOk = true ∧ returnsAt c.k c.pos = false) ∧
      { c.acted s₀.regs with pos := nextPos c.k c.pos, k := nextK c.k c.pos } = c' := by
    simpa [CallView.next] using hn
  obtain ⟨u, hstep, hact, hkept, hready⟩ := h.step hmask
  have hdone := hact.primAfter b c.pos
  have hstay := hkept.stays (p := c.pos) b (by rw [h.k]; exact hr)
  refine ⟨_, hstep, ?_⟩
  exact
    { seq := by rw [hstay.seq, h.k]
      regs := by rw [hstay.regs, h.k, h.regs]
      pins := by rw [hdone.pins, h.pins]; rfl
      owm := by rw [hdone.owm, h.owm, h.owmSaved]; rfl
      owmSaved := by rw [hdone.owmSaved, h.owm, h.owmSaved]; rfl
      irqInhibit := by rw [hdone.irqInhibit, h.irqInhibit]; rfl
      dest := hstay.dest.trans h.dest
      readRun := by rw [hstay.readRun, beq_false_of_ne (h.writes .dir), Bool.false_or, h.readRun]
      frame := h.frame.trans hdone.frame
      writes := nextPos_ne_rdata h.writes
      turns := hdone.frame.turns.trans h.turns
      bound := by rw [hdone.frame.waitBound]; exact h.bound
      inTime := waitInTime_primAfter (by rw [hkept.waitBound]; exact h.bound) b c.pos
      ready := fun hahead => by
        obtain ⟨hbefore, hw⟩ := waitAhead_nextPos hr hahead
        rw [hready hw]
        exact h.ready hbefore }

/-- So they do for `n` steps. -/
theorem Follows.run {n : Nat} (h : Follows s₀ b c s) (hn : c.run s₀.regs n = some c') :
    ∃ t, runsTo n s t ∧ Follows s₀ b c' t := by
  induction n generalizing s c with
  | zero =>
    obtain rfl : c = c' := Option.some.inj hn
    exact ⟨s, runsTo_zero s, h⟩
  | succ n ih =>
    obtain ⟨d, hd, hrest⟩ := Option.bind_eq_some_iff.mp hn
    obtain ⟨u, hstep, hu⟩ := h.next hd
    obtain ⟨t, hrun, ht⟩ := ih hu hrest
    exact ⟨t, runsTo_succ.mpr ⟨u, hstep, hrun⟩, ht⟩

/-- What a call that has returned leaves: the latches, the mask and the flag of its last view, the frame, and block control at the
line after the call. -/
structure CallEnded (s₀ : State) (b : BlockPos) (c : CallView) (t : State) : Prop where
  pins : t.pins = c.pins
  owm : t.owm = c.owm
  irqInhibit : t.irqInhibit = c.irqInhibit
  frame : FrameOfAnAction s₀ t
  readRun : t.readRun = readRunAfter s₀.readRun c.pos
  seq : t.seq = (afterCall b s₀).seq

theorem Follows.returns (h : Follows s₀ b c s) (hmask : c.maskOk = true) (hr : returnsAt c.k c.pos = true) :
    ∃ t, Machine.step s = .next t ∧ CallEnded s₀ b (c.acted s₀.regs) t := by
  obtain ⟨u, hstep, hact, hkept, -⟩ := h.step hmask
  have hdone := hact.primAfter b c.pos
  have hback := hkept.returns (p := c.pos) b (by rw [h.k]; exact hr)
  refine ⟨_, hstep, ?_⟩
  exact
    { pins := by rw [hdone.pins, h.pins]; rfl
      owm := by rw [hdone.owm, h.owm, h.owmSaved]; rfl
      irqInhibit := by rw [hdone.irqInhibit, h.irqInhibit]; rfl
      frame := h.frame.trans hdone.frame
      readRun := by rw [hback.readRun, h.readRun]; rfl
      seq := hback.seq.trans (afterCall_seq_of_sameTransfer b h.sameTransfer h.frame.rfinClkLow) }

/-- A call whose view comes to the returning position `c'` in `n` steps returns with the next. -/
theorem Follows.ends {n : Nat} (h : Follows s₀ b c s) (hn : c.run s₀.regs n = some c')
    (hend : c'.maskOk = true ∧ returnsAt c'.k c'.pos = true) :
    ∃ t, runsTo (n + 1) s t ∧ CallEnded s₀ b (c'.acted s₀.regs) t := by
  obtain ⟨u, hrun, hu⟩ := h.run hn
  obtain ⟨hmask, hr⟩ := hend
  obtain ⟨t, hstep, ht⟩ := hu.returns hmask hr
  exact ⟨t, runsTo_snoc hrun hstep, ht⟩

end

/-! ### ADDR, WDATA and RFIN from their first position to their last (R162, R166, R174) -/

/-- Courses of a view follow one another. -/
theorem CallView.run_trans {r : Regs} {m n : Nat} {c d e : CallView} (hm : c.run r m = some d) (hn : d.run r n = some e) :
    c.run r (m + n) = some e := by
  induction m generalizing c with
  | zero =>
    obtain rfl : c = d := Option.some.inj hm
    rwa [Nat.zero_add]
  | succ m ih =>
    obtain ⟨f, hf, hrest⟩ := Option.bind_eq_some_iff.mp hm
    rw [Nat.add_right_comm]
    exact Option.bind_eq_some_iff.mpr ⟨f, hf, ih hrest⟩

/-- A view inside the critical section, the platform's mask `m` saved. -/
def criticalView (p : PrimPos) (k : BitVec 3) (m : PinSet) (q : Pins) : CallView :=
  { pos := p, k := k, pins := q, owm := mBus, owmSaved := m, irqInhibit := true }

section
variable (r : Regs) (m saved : PinSet) (q : Pins) (v : Bool)

/-- A beat of ADDR before the last: byte K with START in beat 0 alone, and CLK up and down. -/
theorem run_addr_beat {k : BitVec 3} (hk : k.toNat < 4) : (criticalView (.addr .drv) k m q).run r 3 =
    some (criticalView (.addr .drv) (k + 1) m { q with dout := muxByte r.a k.toNat, start := k == 0, clk := false }) := by
  have hnext : nextPos k (.addr .lo) = .addr .drv := by simp only [nextPos, addrNext, if_pos hk]
  have hcount : nextK k (.addr .lo) = k + 1 := if_pos hk
  have hbeat : (criticalView (.addr .drv) k m q).run r 3 = some (criticalView (nextPos k (.addr .lo)) (nextK k (.addr .lo)) m
      { q with dout := muxByte r.a k.toNat, start := k == 0, clk := false }) := rfl
  rw [hbeat, hnext, hcount]

theorem run_addr : CallView.run r 23 { pos := .addr .nRD, k := 0, pins := q, owm := m, owmSaved := saved, irqInhibit := v } =
      some { pos := .addr .cx2, k := 4, owm := m, owmSaved := m, irqInhibit := true
             pins := { clk := false, nRD := true, start := false, dir := .out, dout := muxByte r.a 4 } } := by
  have hentry : CallView.run r 7 { pos := .addr .nRD, k := 0, pins := q, owm := m, owmSaved := saved, irqInhibit := v } =
      some (criticalView (.addr .drv) 0 m { q with nRD := true, start := true, dir := .out }) := rfl
  have hbeats := CallView.run_trans (CallView.run_trans (CallView.run_trans (CallView.run_trans hentry
    (run_addr_beat r m _ (k := 0) (by decide))) (run_addr_beat r m _ (k := 1) (by decide)))
    (run_addr_beat r m _ (k := 2) (by decide))) (run_addr_beat r m _ (k := 3) (by decide))
  exact CallView.run_trans (n := 4) hbeats rfl

/-- A beat of WDATA before the last: byte K at START = 0, and CLK up and down. -/
theorem run_wdata_beat {k : BitVec 3} (hk : k.toNat < 3) : (criticalView (.wdata .drv) k m q).run r 3 =
    some (criticalView (.wdata .drv) (k + 1) m { q with dout := muxByte r.w k.toNat, start := false, clk := false }) := by
  have hnext : nextPos k (.wdata .lo) = .wdata .drv := by simp only [nextPos, wdataNext, if_pos hk]
  have hcount : nextK k (.wdata .lo) = k + 1 := if_pos hk
  have hbeat : (criticalView (.wdata .drv) k m q).run r 3 = some (criticalView (nextPos k (.wdata .lo)) (nextK k (.wdata .lo)) m
      { q with dout := muxByte r.w k.toNat, start := false, clk := false }) := rfl
  rw [hbeat, hnext, hcount]

theorem run_wdata : CallView.run r 20 { pos := .wdata .nRD, k := 0, pins := q, owm := m, owmSaved := saved, irqInhibit := v } =
      some { pos := .wdata .wait, k := 3, owm := m, owmSaved := m, irqInhibit := false
             pins := { clk := false, nRD := true, start := false, dir := .out, dout := muxByte r.w 3 } } := by
  have hentry : CallView.run r 6 { pos := .wdata .nRD, k := 0, pins := q, owm := m, owmSaved := saved, irqInhibit := v } =
      some (criticalView (.wdata .drv) 0 m { q with nRD := true, start := false, dir := .out }) := rfl
  have hbeats := CallView.run_trans (CallView.run_trans (CallView.run_trans hentry
    (run_wdata_beat r m _ (k := 0) (by decide))) (run_wdata_beat r m _ (k := 1) (by decide)))
    (run_wdata_beat r m _ (k := 2) (by decide))
  exact CallView.run_trans (n := 5) hbeats rfl

end

/-- Settles O47: the view of ADDR, followed to `cx2`. -/
theorem addrRunsToItsEnd : Obligations.AddrRunsToItsEnd := by
  intro b s hturns hseq hk hbound hready
  have hview := run_addr s.regs s.owm s.owmSaved s.pins s.irqInhibit
  rw [← hk] at hview
  obtain ⟨t, hrun, ht⟩ := (follows_start hturns hseq rfl nofun hbound hready).ends hview ⟨rfl, rfl⟩
  exact ⟨t, hrun, ht.pins.trans (congrArg _ (byteOfAddress_eq_muxByte s.regs.a 4).symm), ht.owm, ht.irqInhibit,
    ht.frame.otherPins, ht.frame.status, ht.frame.port, ht.seq⟩

/-- Settles O48: the view of WDATA, followed to its wait. -/
theorem wdataRunsToItsEnd : Obligations.WdataRunsToItsEnd := by
  intro b s hturns hseq hk hbound hready
  have hview := run_wdata s.regs s.owm s.owmSaved s.pins s.irqInhibit
  rw [← hk] at hview
  obtain ⟨t, hrun, ht⟩ := (follows_start hturns hseq rfl nofun hbound hready).ends hview ⟨rfl, rfl⟩
  exact ⟨t, hrun, ht.pins.trans (congrArg _ (byteOfWord_eq_muxByte s.regs.w 3).symm), ht.owm, ht.irqInhibit,
    ht.frame.otherPins, ht.frame.status, ht.frame.port, ht.seq⟩

/-- Settles O50: the view of RFIN, with its first position only when RFIN_CLK_LOW. -/
theorem rfinRunsToItsEnd : Obligations.RfinRunsToItsEnd := by
  intro b s hturns hseq hbound hready
  cases hlow : s.rfinClkLow with
  | false =>
    rw [hlow] at hseq
    obtain ⟨t, hrun, ht⟩ := (follows_start hturns hseq rfl nofun hbound hready).ends (n := 2) rfl ⟨rfl, rfl⟩
    exact ⟨t, hrun, ht.pins, ht.owm, ht.irqInhibit, ht.frame.otherPins, ht.frame.status, ht.readRun, ht.seq⟩
  | true =>
    rw [hlow] at hseq
    obtain ⟨t, hrun, ht⟩ := (follows_start hturns hseq rfl nofun hbound hready).ends (n := 3) rfl ⟨rfl, rfl⟩
    exact ⟨t, hrun, ht.pins, ht.owm, ht.irqInhibit, ht.frame.otherPins, ht.frame.status, ht.readRun, ht.seq⟩

/-! ### RDATA on the oracle responder (R24, R170, R191) -/

section
variable {s : State} {b : BlockPos} {d : Byte} {ds : List Byte}

/-- An oracle's byte that it has lined up. -/
theorem sampleData_of_lined_up (he : s.env = .oracle) (hd : s.oracle.data = d :: ds) :
    sampleData s = (d, { s with oracle := { s.oracle with data := ds } }) := by
  simp only [sampleData, he, hd]

/-- A pin write of RDATA, to which an oracle does not react. -/
theorem step_rdata_of_oracle {p : RdataPos} (hturns : s.turns = []) (hseq : s.seq = .run b (.rdata p)) (he : s.env = .oracle)
    (hp : p ≠ .smp) : step s = .next (rdataAfter b p { s with pins := actionPins (rdataAction p) s.pins }) := by
  have hact : perform (rdataAction p) s = { s with pins := actionPins (rdataAction p) s.pins } := by
    cases p with
    | smp => exact absurd rfl hp
    | _ => exact setPins_of_oracle he
  rw [← hact]
  exact step_eq_primStep hturns hseq

/-- The bus turned round for reading, at the first beat. -/
def readBegun (b : BlockPos) (s : State) : State :=
  { s with
    seq := .run b (.rdata .lo)
    pins := { s.pins with nRD := false, dir := .inp }
    readRun := true }

/-- A read beat that has sampled `d`, with `ds` left: CLK is high, and byte K of W is `d`. -/
def beatSampled (b : BlockPos) (d : Byte) (ds : List Byte) (s : State) : State :=
  { s with
    seq := .run b (.rdata .smp)
    pins := { s.pins with clk := true }
    oracle := { s.oracle with data := ds }
    regs := { s.regs with w := putByte s.regs.w s.regs.k.toNat d } }

/-- The same at the beginning of the next beat. -/
def beatOver (b : BlockPos) (d : Byte) (ds : List Byte) (s : State) : State :=
  { beatSampled b d ds s with
    seq := .run b (.rdata .lo)
    regs := { (beatSampled b d ds s).regs with k := s.regs.k + 1 } }

theorem runsTo_readBegun (hturns : s.turns = []) (hseq : s.seq = .run b (.rdata .dir)) (he : s.env = .oracle) :
    runsTo 2 s (readBegun b s) := by
  let u : State := { s with seq := .run b (.rdata .nRD), pins := { s.pins with dir := .inp }, readRun := true }
  have hdir : step s = .next u := step_rdata_of_oracle hturns hseq he nofun
  have hnRD : step u = .next (readBegun b s) := step_rdata_of_oracle (s := u) hturns rfl he nofun
  exact runsTo_snoc (runsTo_snoc (runsTo_zero s) hdir) hnRD

/-- The three actions of a read beat: CLK down, CLK up, and the sample. -/
theorem runsTo_read_beat (hturns : s.turns = []) (hseq : s.seq = .run b (.rdata .lo)) (he : s.env = .oracle)
    (hd : s.oracle.data = d :: ds) : runsTo 3 s (rdataAfter b .smp (beatSampled b d ds s)) := by
  let u : State := { s with seq := .run b (.rdata .hi), pins := { s.pins with clk := false } }
  let v : State := { s with seq := .run b (.rdata .smp), pins := { s.pins with clk := true } }
  have hlo : step s = .next u := step_rdata_of_oracle hturns hseq he nofun
  have hhi : step u = .next v := step_rdata_of_oracle (s := u) hturns rfl he nofun
  have hsmp : step v = .next (rdataAfter b .smp (readBeat v)) := step_eq_primStep (p := .rdata .smp) hturns rfl
  rw [readBeat, sampleData_of_lined_up (s := v) he hd] at hsmp
  exact runsTo_snoc (runsTo_snoc (runsTo_snoc (runsTo_zero s) hlo) hhi) hsmp

theorem runsTo_beatOver (hturns : s.turns = []) (hseq : s.seq = .run b (.rdata .lo)) (he : s.env = .oracle)
    (hd : s.oracle.data = d :: ds) (hk : s.regs.k.toNat < 3) : runsTo 3 s (beatOver b d ds s) := by
  have hafter : rdataAfter b .smp (beatSampled b d ds s) = beatOver b d ds s := if_pos hk
  rw [← hafter]
  exact runsTo_read_beat hturns hseq he hd

theorem runsTo_lastBeat (hturns : s.turns = []) (hseq : s.seq = .run b (.rdata .lo)) (he : s.env = .oracle)
    (hd : s.oracle.data = d :: ds) (hk : 3 ≤ s.regs.k.toNat) : runsTo 3 s (afterCall b (beatSampled b d ds s)) := by
  have hafter : rdataAfter b .smp (beatSampled b d ds s) = afterCall b (beatSampled b d ds s) := if_neg (Nat.not_lt.mpr hk)
  rw [← hafter]
  exact runsTo_read_beat hturns hseq he hd

/-- A word sampled with the first byte at the low end: three beats that go on to the next, and the last. -/
theorem runsTo_word {b0 b1 b2 b3 : Byte} (hturns : s.turns = []) (hseq : s.seq = .run b (.rdata .lo)) (he : s.env = .oracle)
    (hd : s.oracle.data = b0 :: b1 :: b2 :: b3 :: ds) (hk : s.regs.k = 0) :
    runsTo 12 s (afterCall b { s with
      seq := .run b (.rdata .smp)
      pins := { s.pins with clk := true }
      oracle := { s.oracle with data := ds }
      regs := { s.regs with w := b3 ++ b2 ++ b1 ++ b0, k := 3 } }) := by
  let s1 := beatOver b b0 (b1 :: b2 :: b3 :: ds) s
  let s2 := beatOver b b1 (b2 :: b3 :: ds) s1
  let s3 := beatOver b b2 (b3 :: ds) s2
  have hk1 : s1.regs.k = 1 := congrArg (· + 1) hk
  have hk2 : s2.regs.k = 2 := congrArg (· + 1) hk1
  have hk3 : s3.regs.k = 3 := congrArg (· + 1) hk2
  have h1 : runsTo 3 s s1 := runsTo_beatOver hturns hseq he hd (by rw [hk]; decide)
  have h2 : runsTo 3 s1 s2 := runsTo_beatOver hturns rfl he rfl (by rw [hk1]; decide)
  have h3 : runsTo 3 s2 s3 := runsTo_beatOver hturns rfl he rfl (by rw [hk2]; decide)
  have h4 : runsTo 3 s3 (afterCall b (beatSampled b b3 ds s3)) := runsTo_lastBeat hturns rfl he rfl (by rw [hk3]; decide)
  have hword : (beatSampled b b3 ds s3).regs.w = b3 ++ b2 ++ b1 ++ b0 := by
    show putByte (putByte (putByte (putByte s.regs.w s.regs.k.toNat b0) s1.regs.k.toNat b1) s2.regs.k.toNat b2)
      s3.regs.k.toNat b3 = _
    rw [hk, hk1, hk2, hk3]
    exact putByte_four s.regs.w b0 b1 b2 b3
  rw [← hword, ← hk3]
  exact runsTo_trans h1 (runsTo_trans h2 (runsTo_trans h3 h4))

end

/-- Settles O49: two steps turn the bus round, twelve sample the word, and PEEK's line takes it. -/
theorem rdataAssemblesTheSampledWord : Obligations.RdataAssemblesTheSampledWord := by
  intro s b0 b1 b2 b3 more hturns hseq hk hop he hdata
  let u : State := { readBegun .xfer s with
    seq := .run .xfer (.rdata .smp)
    pins := { s.pins with clk := true, nRD := false, dir := .inp }
    oracle := { s.oracle with data := more }
    regs := { s.regs with w := b3 ++ b2 ++ b1 ++ b0, k := 3 } }
  have hword : runsTo 12 (readBegun .xfer s) (afterCall .xfer u) := runsTo_word (s := readBegun .xfer s) hturns rfl he hdata hk
  obtain ⟨hdest, hregs⟩ := afterCall_xfer_peek (s := u) hop
  obtain ⟨q, r, e, hafter⟩ := afterCall_eq .xfer u
  have hdone : destRead (afterCall .xfer u).dest s.regs.i.toNat = some (b3 ++ b2 ++ b1 ++ b0) := by
    rw [hdest]
    exact destRead_destWrite_self _ _ _
  refine ⟨_, runsTo_trans (runsTo_readBegun hturns hseq he) hword, by rw [hregs], ?_, hdone, ?_, ?_, ?_, ?_, ?_, by rw [hregs],
    by rw [hregs], ?_, ?_⟩
  all_goals
    rw [hafter]
  all_goals rfl

end Sys2Proof.Machine
end

section
/-! SUPPORT. Block operations: every step keeps the good states, the accept of a command, and the running address: O37, O7, O8, O10,
O32, O33. -/

namespace Sys2Proof.Machine

/-! ### Every step keeps the good states (R141, R219) -/

section
variable {s t : State}

/-- The bus mask is in OWM inside the critical sections only (R137, R219). -/
theorem primInhibited_of_primMasked {p : PrimPos} (h : primMasked p = true) : primInhibited p = true := by
  cases p with
  | addr p => revert h; cases p <;> decide
  | wdata p => revert h; cases p <;> decide
  | rdata p => cases h
  | rfin p => cases h

theorem not_seqMasked_of_not_inhibited (h : seqInhibited s.seq = false) : seqMasked s.seq = false := by
  cases hq : s.seq with
  | run b p =>
    rw [hq] at h
    exact Bool.eq_false_of_not_eq_true fun hm => by rw [seqInhibited, primInhibited_of_primMasked hm] at h; cases h
  | _ => rfl

/-- No bus mask is about to be written outside the critical sections (R137, R219). -/
theorem saveOk_of_not_inhibited (h : seqInhibited s.seq = false) : saveOk s = true := by
  unfold saveOk
  split
  · next hq => rw [hq] at h; cases h
  · next hq => rw [hq] at h; cases h
  · rfl

/-- Outside the critical sections OWM is the platform's own, and a handler may write it (R32, R141). -/
theorem Inv.withOwm (hi : Inv s) (hinhibit : s.irqInhibit = false) (m : PinSet) : Inv { s with owm := m } := by
  have hquiet : seqInhibited s.seq = false := hi.inhibit.symm.trans hinhibit
  exact
    { memory := hi.memory
      dest := hi.dest
      bound := hi.bound
      busy := hi.busy
      inhibit := hi.inhibit
      mask := fun hm => by rw [not_seqMasked_of_not_inhibited hquiet] at hm; cases hm
      save := saveOk_of_not_inhibited hquiet
      polls := hi.polls
      drive := hi.drive
      place := hi.place }

theorem Inv.withOtherPins (hi : Inv s) (v : Nat) : Inv { s with otherPins := v } where
  memory := hi.memory
  dest := hi.dest
  bound := hi.bound
  busy := hi.busy
  inhibit := hi.inhibit
  mask := hi.mask
  save := hi.save
  polls := hi.polls
  drive := hi.drive
  place := hi.place

/-- With BUSY at 0 no wait is under way that could be past a new bound, and no RFIN that knows RFIN_CLK_LOW (R33, R34). -/
theorem Inv.withConfiguration (hi : Inv s) (hbusy : s.busy = false) {bound : Option Nat} (hbound : boundOk bound = true)
    (clkLow : Bool) : Inv { s with waitBound := bound, rfinClkLow := clkLow } := by
  have hq : s.seq = .idle := by simpa [hbusy] using hi.busy
  exact
    { memory := hi.memory
      dest := hi.dest
      bound := hbound
      busy := hi.busy
      inhibit := hi.inhibit
      mask := hi.mask
      save := hi.save
      polls := pollsOk_of_not_wait (by rw [hq]; rfl)
      drive := hi.drive
      place := by
        have hplace := hi.place
        simp only [placeOk, hq] at hplace ⊢
        exact hplace }

/-- A handler's write, when it is let in, leaves a good state. -/
theorem Inv.handlerMove (hi : Inv s) (hinhibit : s.irqInhibit = false) {w : HandlerWrite}
    (h : outcomeOf (handlerMove w s) = .next t) : Inv t := by
  cases w with
  | owm m => cases h; exact hi.withOwm hinhibit m
  | otherPins v => cases h; exact hi.withOtherPins v
  | _ => cases h

end

/-- Settles O37: the engine's steps keep the good states, handlers write outside the critical sections only, and the platform sets
the configuration at IDLE only. -/
theorem stepKeepsTheInvariant : Obligations.StepKeepsTheInvariant := by
  intro s t hi h
  cases hturns : s.turns with
  | nil => exact engineStep_keeps_inv hi (engineStep_of_step hturns h)
  | cons turn ts =>
    cases turn with
    | engine =>
      rw [step_eq_outcomeOf, nextMove, hturns] at h
      exact engineStep_keeps_inv (hi.withTurns ts) (engineStep_of_engineMove h)
    | handler w =>
      cases hinhibit : s.irqInhibit with
      | true =>
        rw [step_of_handler_inhibited hturns hinhibit] at h
        exact engineStep_keeps_inv hi (engineStep_of_engineMove h)
      | false =>
        rw [step_of_handler_enabled hturns hinhibit] at h
        exact (hi.withTurns ts).handlerMove hinhibit h
    | configure bound clkLow =>
      rw [step_configure hturns] at h
      split at h
      · cases h
      · next hok =>
        obtain ⟨hbusy, hbound⟩ : s.busy = false ∧ boundOk bound = true := by simpa using hok
        cases h
        exact (hi.withTurns ts).withConfiguration hbusy hbound clkLow

/-! ### The accept of a command (R190, R191, R195) -/

section
variable {s : State} {n : Count}

/-- A POKE with a word to write begins with an address phase: I is 0 (R193). -/
theorem pokeLoop_accept (addr : HostAddress) (hn : n ≠ 0) (s : State) :
    pokeLoop (accept .poke addr n s) = callAddr .head (accept .poke addr n s) := by
  have hlt : (0 : Count) < n := by bv_omega
  exact if_pos hlt

/-- The step at the `end:` line. -/
theorem step_of_finish (hturns : s.turns = []) (hseq : s.seq = .finish) : step s = .next (endCommand s) := by
  simp only [step_eq_outcomeOf, nextMove, hturns, engineMove, hseq, outcomeOf]

/-- A POKE of no words comes to its `end:` line at once (R195). -/
theorem pokeLoop_accept_zero (addr : HostAddress) (s : State) :
    pokeLoop (accept .poke addr 0 s) = toEnd (accept .poke addr 0 s) := rfl

/-- A command that has just been accepted, at the first position of ADDR. -/
theorem callAddr_accept (op : Op) (addr : HostAddress) (n : Count) (s : State) :
    callAddr .head (accept op addr n s) = { s with
      busy := true
      regs := { s.regs with op := op, a := addr.extractLsb' 0 40, n := n, i := 0, k := 0 }
      src := offeredSrc s
      port := s.port.tail
      seq := .run .head (.addr .nRD) } := by
  rw [← BitVec.setWidth_eq_extractLsb' (by decide)]
  rfl

end

/-- Settles O7: the stream is long enough, and the loop's first call is ADDR. -/
theorem pokeIsAccepted : Obligations.PokeIsAccepted := by
  intro addr n s hseq hbusy hsrc hn
  have hstream : streamOk (.poke addr n) (offeredSrcCount s) (offeredRoom s) = true := decide_eq_true hsrc
  rw [exec, execPoke, if_pos (portReady_of_idle hseq hbusy), if_pos hstream, pokeLoop_accept addr hn, callAddr_accept]

/-- Settles O8: the room is large enough, and ADDR is called before the loop. -/
theorem peekIsAccepted : Obligations.PeekIsAccepted := by
  intro addr n s hseq hbusy hroom
  have hstream : streamOk (.peek addr n) (offeredSrcCount s) (offeredRoom s) = true := decide_eq_true hroom
  rw [exec, execPeek, if_pos (portReady_of_idle hseq hbusy), if_pos hstream, callAddr_accept]

/-- Settles O10: the loop's test fails at once, so the accept is followed by the end. -/
theorem pokeOfNoWordsTouchesNothing : Obligations.PokeOfNoWordsTouchesNothing := by
  intro addr s o ho hp
  have haccept := step_accept_poke ho hp (Nat.zero_le _)
  rw [pokeLoop_accept_zero] at haccept
  have hend : step (toEnd (accept .poke addr 0 s)) = .next (endCommand (toEnd (accept .poke addr 0 s))) :=
    step_of_finish ho.turns rfl
  have hrun := runsTo_snoc (runsTo_zero s) haccept
  refine ⟨_, _, hrun, rfl, rfl, runsTo_snoc hrun hend, ?_⟩
  obtain ⟨hseq, hbusy, -, hport⟩ := ho
  rw [← BitVec.setWidth_eq_extractLsb' (by decide)]
  simp only [endCommand, toEnd, accept, offeredSrc, hport, ← hseq, ← hbusy]
  rfl

/-! ### The running address (R192, R193, R196) -/

/-- The page test looks at the address's low byte (R193). -/
theorem pageStart_iff_lowByte (a : Address) : pageStart a = true ↔ a.extractLsb' 0 8 = 0 := by
  rw [pageStart, beq_iff_eq, BitVec.setWidth_eq_extractLsb' (by decide)]

section
variable {s : State}

/-- With words left the loop of POKE calls ADDR before the first word and on a new page, else WDATA (R190, R193). -/
theorem pokeLoop_seq_of_more (hmore : s.regs.i < s.regs.n) : (pokeLoop s).seq =
    if s.regs.i = 0 ∨ s.regs.a.extractLsb' 0 8 = 0 then .run .head (.addr .nRD) else .run .xfer (.wdata .nRD) := by
  rw [pokeLoop_seq, if_pos hmore]
  simp only [Bool.or_eq_true, beq_iff_eq, pageStart_iff_lowByte]

/-- With words left the loop of PEEK calls RFIN on a new page, but not before the first word, else RDATA (R191, R193). -/
theorem peekLoop_seq_of_more (hmore : s.regs.i < s.regs.n) : (peekLoop s).seq =
    if s.regs.i ≠ 0 ∧ s.regs.a.extractLsb' 0 8 = 0 then .run .close (.rfin (rfinEntry s.rfinClkLow))
    else .run .xfer (.rdata .dir) := by
  rw [peekLoop_seq, if_pos hmore]
  simp only [Bool.and_eq_true, bne_iff_ne, pageStart_iff_lowByte]

end

/-- Settles O32: the two loops by their tests; the other lines have one call each. -/
theorem addressIsResentOnNewPagesOnly : Obligations.AddressIsResentOnNewPagesOnly := by
  intro s hmore
  have hpoke : Seq.run .head (.addr .nRD) ≠ .run .xfer (.wdata .nRD) := nofun
  have hpeek : Seq.run .close (.rfin (rfinEntry s.rfinClkLow)) ≠ .run .xfer (.rdata .dir) := nofun
  rw [pokeLoop_seq_of_more hmore, peekLoop_seq_of_more hmore]
  refine ⟨hpoke.ite_eq_left_iff, hpoke.ite_eq_right_iff, hpeek.ite_eq_left_iff, hpeek.ite_eq_right_iff, rfl, rfl,
    fun hop => ?_, fun hop hi => ?_⟩
  · simp only [afterCall, hop]
    rfl
  · simp only [afterCall, hop]
    rw [peekLoop_seq_of_more hmore, if_neg (fun h => h.1 hi)]

section
variable {s : State}

/-- After a word of either command A and I have counted on (R190 to R192). -/
theorem afterCall_xfer_counts (s : State) :
    (afterCall .xfer s).regs.a = nextAddress s.regs.a ∧ (afterCall .xfer s).regs.i = s.regs.i + 1 := by
  cases hop : s.regs.op with
  | poke =>
    have hloop := pokeLoop_sameTransfer (advanceWord s)
    rw [afterCall_xfer_of_poke hop]
    exact ⟨hloop.a, hloop.i⟩
  | peek =>
    have hloop := peekLoop_sameTransfer (advanceWord (storeDest s))
    rw [afterCall_xfer_of_peek hop]
    exact ⟨hloop.a, hloop.i⟩

end

/-- Settles O33: past the top of the space A is 0, which begins a page. -/
theorem runningAddressCountsAndWraps : Obligations.RunningAddressCountsAndWraps := by
  intro s
  obtain ⟨ha, hi⟩ := afterCall_xfer_counts s
  refine ⟨by rw [ha, toNat_nextAddress], hi, fun htop hlt hmore => ?_⟩
  have hwrap : nextAddress s.regs.a = 0 := by rw [htop]; rfl
  have hpage : (nextAddress s.regs.a).extractLsb' 0 8 = 0 := by rw [hwrap]; rfl
  have hne : s.regs.i + 1 ≠ 0 := by bv_omega
  refine ⟨ha.trans hwrap, fun hop => ?_, fun hop => ⟨?_, rfl⟩⟩
  · rw [afterCall_xfer_of_poke hop, pokeLoop_seq_of_more (s := advanceWord s) hmore]
    exact if_pos (.inr hpage)
  · rw [afterCall_xfer_of_peek hop, peekLoop_seq_of_more (s := advanceWord (storeDest s)) hmore]
    exact if_pos ⟨hne, hpage⟩

end Sys2Proof.Machine
end

section
/-! SUPPORT. The engine does not see the far end: a command that finds nWAIT at 1 at every sample takes the same course from every
state that is alike on the engine's side, so its steps are counted beside a good state: O51, O52. -/

namespace Sys2Proof.Machine

/-! ### The engine's side of a state -/

/-- What the engine's course depends on: the data under way, the responder and DEST are put aside, and so is IRQ_INHIBIT, which
speaks to handlers only (R30). -/
def engineSide (s : State) : State :=
  { s with
    pins := { s.pins with dout := 0 }
    otherPins := 0
    irqInhibit := false
    regs := { s.regs with w := 0 }
    dest := []
    readRun := false
    oracle := { nWait := [], data := [] }
    fix := State.reset.fix
    draws := 0 }

@[simp] theorem engineSide_op (s : State) : (engineSide s).regs.op = s.regs.op := rfl

theorem engineSide_setPins (q : Pins) (s : State) : engineSide (setPins q s) = engineSide { s with pins := q } := by
  obtain ⟨f, d, h⟩ := setPins_eq q s
  rw [h]
  rfl

/-- What an action does to the engine's side it does by the engine's side. -/
theorem engineSide_perform (x : Action) (s : State) :
    engineSide (perform x s) = engineSide (perform x (engineSide s)) := by
  cases x with
  | pin p v =>
    simp only [perform, writePin, engineSide_setPins]
    cases p <;> rfl
  | dir d =>
    simp only [perform, writeDir, engineSide_setPins]
    rfl
  | mwrite b v =>
    simp only [perform, mwrite, engineSide_setPins]
    rfl
  | sampleData =>
    obtain ⟨o, d, h⟩ := perform_sampleData_eq s
    obtain ⟨o', d', h'⟩ := perform_sampleData_eq (engineSide s)
    rw [h, h']
    rfl
  | sampleNWait =>
    obtain ⟨o, d, n, h⟩ := sampleNWait_eq s
    obtain ⟨o', d', n', h'⟩ := sampleNWait_eq (engineSide s)
    rw [perform, perform, h, h']
    rfl
  | _ => rfl

/-- The byte of a masked write is data. -/
theorem engineSide_mwrite (b b' : Byte) (v : Bool) (s : State) :
    engineSide (perform (.mwrite b v) s) = engineSide (perform (.mwrite b' v) s) := by
  simp only [perform, mwrite, engineSide_setPins]
  rfl

/-- Of the working registers a position's action takes W for data only. -/
theorem engineSide_primAction (p : PrimPos) (s : State) :
    engineSide (perform (primAction s.regs p) s) =
      engineSide (perform (primAction (engineSide s).regs p) (engineSide s)) := by
  rw [engineSide_perform]
  cases p with
  | wdata p =>
    cases p with
    | drv => exact engineSide_mwrite _ _ _ _
    | _ => rfl
  | _ => rfl

theorem engineSide_waitOver (s : State) : engineSide (waitOver (sampleNWait s).2) = engineSide s := by
  obtain ⟨o, d, m, n, h⟩ := waitOver_sampleNWait_eq s
  rw [h]
  rfl

theorem engineSide_pokeLoop (s : State) : engineSide (pokeLoop s) = engineSide (pokeLoop (engineSide s)) := by
  simp only [pokeLoop, apply_ite engineSide]
  rfl

theorem engineSide_peekLoop (s : State) : engineSide (peekLoop s) = engineSide (peekLoop (engineSide s)) := by
  simp only [peekLoop, apply_ite engineSide]
  rfl

theorem engineSide_afterCall (b : BlockPos) (s : State) :
    engineSide (afterCall b s) = engineSide (afterCall b (engineSide s)) := by
  cases b with
  | head =>
    cases hop : s.regs.op with
    | poke =>
      simp only [afterCall, engineSide_op, hop]
      rfl
    | peek =>
      simp only [afterCall, engineSide_op, hop]
      exact engineSide_peekLoop s
  | xfer =>
    cases hop : s.regs.op with
    | poke =>
      rw [afterCall_xfer_of_poke hop, afterCall_xfer_of_poke (s := engineSide s) hop, engineSide_pokeLoop,
        engineSide_pokeLoop (advanceWord (engineSide s))]
      rfl
    | peek =>
      rw [afterCall_xfer_of_peek hop, afterCall_xfer_of_peek (s := engineSide s) hop, engineSide_peekLoop,
        engineSide_peekLoop (advanceWord (storeDest (engineSide s)))]
      rfl
  | _ => rfl

/-- Control goes on by the engine's side alone. -/
theorem engineSide_primAfter (b : BlockPos) (p : PrimPos) (s : State) :
    engineSide (primAfter b p s) = engineSide (primAfter b p (engineSide s)) := by
  cases hr : returnsAt s.regs.k p with
  | false =>
    rw [primAfter_of_not_returnsAt b s hr, primAfter_of_not_returnsAt b (engineSide s) hr]
    rfl
  | true =>
    rw [primAfter_of_returnsAt b s hr, primAfter_of_returnsAt b (engineSide s) hr, engineSide_afterCall,
      engineSide_afterCall b { engineSide s with readRun := _ }]
    rfl

/-! ### A command run beside a good state -/

/-- The positions of ADDR up to the write that raises IRQ_INHIBIT. In a command's first address phase no action of the command has
written the flag by then. -/
def flagPending : Seq → Bool
  | .run _ (.addr p) => p == .nRD || p == .start || p == .dir || p == .wait || p == .ce1
  | _ => false

/-- `s` is as the good state `t` on the engine's side, and its IRQ_INHIBIT too once the command has written it; nWAIT will be sampled
as 1. -/
structure RunsLike (t s : State) : Prop where
  side : engineSide s = engineSide t
  flag : s.irqInhibit = t.irqInhibit ∨ flagPending t.seq = true
  ready : AlwaysReady s

section
variable {s t : State} {b : BlockPos} {p : PrimPos}

theorem RunsLike.seq (h : RunsLike t s) : s.seq = t.seq := (congrArg State.seq h.side :)

theorem RunsLike.turns (h : RunsLike t s) : s.turns = t.turns := (congrArg State.turns h.side :)

theorem RunsLike.owm (h : RunsLike t s) : s.owm = t.owm := (congrArg State.owm h.side :)

theorem RunsLike.inTime (h : RunsLike t s) (ht : WaitInTime t) : WaitInTime s := by
  have hside : WaitInTime (engineSide s) := h.side ▸ ht
  exact hside

/-- A position of a primitive left with nWAIT at 1: its action done, or its wait over. -/
def pastPosition (p : PrimPos) (s : State) : State :=
  match primWait p with
  | some _ => waitOver (sampleNWait s).2
  | none => perform (primAction s.regs p) s

/-- On the always-ready responder every step of a primitive does its action, or ends its wait, whatever the state. -/
theorem primStep_eq_pastPosition (hready : AlwaysReady s) (htime : WaitInTime s) (hq : s.seq = .run b p) :
    primStep b p s = primAfter b p (pastPosition p s) := by
  cases hw : primWait p with
  | none => simp only [primStep_of_action b s hw, pastPosition, hw]
  | some w =>
    have hb : boundReached s = false := htime (by rw [hq, isWait_run, hw]; rfl)
    rw [primStep_of_wait b s hw, waitStep_of_one hb (sampleNWait_of_alwaysReady hready)]
    simp only [pastPosition, hw]

theorem engineSide_pastPosition (p : PrimPos) (s : State) :
    engineSide (pastPosition p s) = engineSide (pastPosition p (engineSide s)) := by
  unfold pastPosition
  split
  · rw [engineSide_waitOver, engineSide_waitOver]
    rfl
  · exact engineSide_primAction p s

theorem pastPosition_script (p : PrimPos) (s : State) : (pastPosition p s).fix.script = s.fix.script := by
  unfold pastPosition
  split
  · exact waitOver_sampleNWait_script s
  · exact perform_script _ s

theorem pastPosition_frame (p : PrimPos) (s : State) : PrimFrame s (pastPosition p s) := by
  unfold pastPosition
  split
  · exact (sampleNWait_frame s).trans (waitOver_frame _)
  · exact perform_frame _ s

/-- IRQ_INHIBIT is written by the position's action alone. -/
theorem pastPosition_irqInhibit (p : PrimPos) (s : State) :
    (pastPosition p s).irqInhibit = actionInhibit (primAction s.regs p) s.irqInhibit := by
  unfold pastPosition
  split
  · next w hw =>
    obtain ⟨hx, -⟩ := wait_action s.regs hw
    obtain ⟨o, d, m, n, h⟩ := waitOver_sampleNWait_eq s
    rw [h, hx]
    rfl
  · exact perform_irqInhibit _ s

theorem primAfter_irqInhibit (b : BlockPos) (p : PrimPos) (s : State) : (primAfter b p s).irqInhibit = s.irqInhibit := by
  obtain ⟨q, r, d, v, h⟩ := controlOnly_primAfter b p s
  rw [h]

/-- Which position writes the flag, and how, does not depend on the working registers. -/
theorem actionInhibit_congr (r r' : Regs) (p : PrimPos) (v : Bool) :
    actionInhibit (primAction r p) v = actionInhibit (primAction r' p) v := by
  cases p with
  | addr p => cases p <;> rfl
  | wdata p => cases p <;> rfl
  | rdata p => cases p <;> rfl
  | rfin p => cases p <;> rfl

/-- A position before the flag's first write raises it, or is followed by another such position. -/
theorem flagPending_primAfter (hp : flagPending (.run b p) = true) (r : Regs) (v v' : Bool) (s : State) :
    actionInhibit (primAction r p) v = actionInhibit (primAction r p) v' ∨ flagPending (primAfter b p s).seq = true := by
  cases p with
  | addr p =>
    cases p with
    | nRD => exact .inr rfl
    | start => exact .inr rfl
    | dir => exact .inr rfl
    | wait => exact .inr rfl
    | ce1 => exact .inl rfl
    | _ => cases hp
  | _ => cases hp

/-- A step of the primitive in flight leaves the two alike. -/
theorem RunsLike.primStep (h : RunsLike t s) (hready : AlwaysReady t) (htime : WaitInTime t) (hq : t.seq = .run b p) :
    RunsLike (primStep b p t) (primStep b p s) := by
  rw [primStep_eq_pastPosition hready htime hq, primStep_eq_pastPosition h.ready (h.inTime htime) (h.seq.trans hq)]
  refine ⟨?_, ?_, ?_⟩
  · rw [engineSide_primAfter, engineSide_pastPosition, h.side, ← engineSide_pastPosition, ← engineSide_primAfter]
  · rw [primAfter_irqInhibit, primAfter_irqInhibit, pastPosition_irqInhibit, pastPosition_irqInhibit,
      actionInhibit_congr s.regs t.regs]
    obtain hflag | hpending := h.flag
    · exact .inl (by rw [hflag])
    · rw [hq] at hpending
      exact flagPending_primAfter hpending _ _ _ _
  · have hframe := (pastPosition_frame p s).trans (primAfter_frame b p _)
    exact alwaysReady_of_script h.ready hframe.env (by rw [primAfter_fix, pastPosition_script])

end

/-! ### The levels that a command ends at (R176, R254) -/

/-- The bus at rest in write mode; CLK is 1 after reads unless RFIN_CLK_LOW. -/
structure RestLevels (op : Op) (n : Count) (clkLow : Bool) (q : Pins) : Prop where
  nRD : q.nRD = true
  start : q.start = false
  dir : q.dir = .out
  clk : q.clk = (op == .peek && n != 0 && !clkLow)

section
variable {s t : State} {b : BlockPos} {p : PrimPos}

/-- A command comes to its `end:` line from POKE's loop, or from PEEK's final Read-Finish (R190, R191). -/
theorem line_of_finish (h : (afterCall b s).seq = .finish) : b = .last ∨ b = .xfer ∧ s.regs.op = .poke := by
  have hpeek : ∀ u : State, (peekLoop u).seq ≠ .finish := fun u => by
    rw [peekLoop_seq]
    split_ifs <;> exact nofun
  cases b with
  | head =>
    cases hop : s.regs.op with
    | poke => simp only [afterCall, hop] at h; cases h
    | peek => simp only [afterCall, hop] at h; exact absurd h (hpeek s)
  | xfer =>
    cases hop : s.regs.op with
    | poke => exact .inr ⟨rfl, rfl⟩
    | peek => rw [afterCall_xfer_of_peek hop] at h; exact absurd h (hpeek _)
  | last => exact .inl rfl
  | _ => cases h

theorem blockOk_last {r : Regs} (h : blockOk .last p r = true) : (∃ q, p = .rfin q) ∧ r.op = .peek ∧ r.i = r.n := by
  cases p with
  | rfin q =>
    cases hop : r.op with
    | poke => simp [blockOk, hop] at h
    | peek => exact ⟨⟨q, rfl⟩, rfl, by simpa [blockOk, hop] using h⟩
  | _ => cases h

theorem blockOk_xfer_poke {r : Regs} (h : blockOk .xfer p r = true) (hop : r.op = .poke) : ∃ q, p = .wdata q := by
  cases p with
  | wdata q => exact ⟨q, rfl⟩
  | rdata q => simp [blockOk, hop] at h
  | _ => cases h

/-- The step to the `end:` line is the end of the last word's wait or of the last Read-Finish, and the levels stay. -/
theorem restLevels_of_finish (hi : Inv s) (hready : AlwaysReady s) (htime : WaitInTime s) (hq : s.seq = .run b p)
    (hfinish : (primStep b p s).seq = .finish) :
    RestLevels s.regs.op s.regs.n s.rfinClkLow (primStep b p s).pins := by
  obtain ⟨u, hpast, -, hstep⟩ := primStep_of_alwaysReady hi hready htime hq
  obtain ⟨hb, hp⟩ := hi.placeOk_run hq
  rw [hstep] at hfinish ⊢
  rw [primAfter_pins, hpast.pins]
  cases hr : returnsAt u.regs.k p with
  | false =>
    rw [primAfter_of_not_returnsAt b u hr] at hfinish
    cases hfinish
  | true =>
    rw [primAfter_of_returnsAt b u hr] at hfinish
    rw [hpast.k] at hr
    obtain rfl | ⟨rfl, hop⟩ := line_of_finish hfinish
    · obtain ⟨⟨q, rfl⟩, hop, hin⟩ := blockOk_last hb
      obtain rfl : q = .wait := by simpa [returnsAt] using hr
      simp only [primOk, rfinPinsOk, Bool.and_eq_true, Bool.not_eq_true', beq_iff_eq] at hp
      obtain ⟨⟨hstart, hrun⟩, ⟨hn, hdir⟩, hclk⟩ := hp
      rw [hrun, hin] at hclk
      exact ⟨hn, hstart, hdir, by rw [hop]; exact hclk⟩
    · obtain ⟨q, rfl⟩ := blockOk_xfer_poke hb (hpast.same.op.symm.trans hop)
      obtain rfl : q = .wait := by simpa [returnsAt] using hr
      simp only [primOk, wdataPinsOk, Bool.and_eq_true, Bool.not_eq_true', beq_iff_eq] at hp
      obtain ⟨-, ⟨⟨hn, hdir⟩, hstart⟩, hclk, -⟩ := hp
      exact ⟨hn, hstart, hdir, by rw [← hpast.same.op, hop]; exact hclk⟩

/-- A step of a primitive keeps the platform's mask (R137, R138). -/
theorem platformMask_primStep (hi : Inv s) (hq : s.seq = .run b p) : platformMask (primStep b p s) = platformMask s := by
  cases hw : primWait p with
  | none => exact platformMask_primStep_of_action hi hq hw
  | some w => exact platformMask_primStep_of_wait hq hw

end

/-! ### A whole command on the always-ready responder, from any state (R194) -/

/-- A command on the always-ready responder stands in `s` as in the good state `t`; the platform's mask is `m`. -/
structure Alongside (s₀ : State) (op : Op) (base : Address) (n : Count) (src : List Word) (m : PinSet) (clkLow : Bool)
    (t s : State) : Prop where
  way : Underway s₀ op base n src t
  like : RunsLike t s
  mask : platformMask t = m
  clkLow_eq : t.rfinClkLow = clkLow
  rest : t.seq = .finish → RestLevels op n clkLow t.pins

section
variable {s₀ s t : State} {op : Op} {base : Address} {n : Count} {src : List Word} {m : PinSet} {clkLow : Bool}
  {b : BlockPos} {p : PrimPos}

/-- A step of the primitive in flight keeps all of it and brings the end one step nearer. -/
theorem Alongside.primStep (h : Alongside s₀ op base n src m clkLow t s) (hq : t.seq = .run b p) :
    Alongside s₀ op base n src m clkLow (primStep b p t) (primStep b p s) ∧
      stepsToEnd (primStep b p t) + 1 = stepsToEnd t := by
  obtain ⟨hway, hsteps⟩ := h.way.primStep hq
  refine ⟨?_, hsteps⟩
  exact
    { way := hway
      like := h.like.primStep h.way.ready h.way.inTime hq
      mask := (platformMask_primStep h.way.inv hq).trans h.mask
      clkLow_eq := (engineStep_keeps_configuration (.prim b p hq)).2.trans h.clkLow_eq
      rest := fun hfinish => by
        rw [← h.way.frame.op_eq, ← h.way.frame.n_eq, ← h.clkLow_eq]
        exact restLevels_of_finish h.way.inv h.way.ready h.way.inTime hq hfinish }

/-- So the command comes to its `end:` line in the steps counted. -/
theorem Alongside.runs {k : Nat} (h : Alongside s₀ op base n src m clkLow t s) (hk : stepsToEnd t = k) :
    ∃ t' s', runsTo k s s' ∧ t'.seq = .finish ∧ Alongside s₀ op base n src m clkLow t' s' := by
  induction k generalizing s t with
  | zero =>
    cases hq : t.seq with
    | idle => exact absurd hq h.way.running
    | run b p =>
      have hpos := primStepsLeft_pos t.regs.k p
      rw [stepsToEnd_run hq] at hk
      omega
    | finish => exact ⟨t, s, runsTo_zero s, hq, h⟩
  | succ k ih =>
    cases hq : t.seq with
    | idle => exact absurd hq h.way.running
    | run b p =>
      obtain ⟨hnext, hsteps⟩ := h.primStep hq
      obtain ⟨t', s', hrun, hfinish, h'⟩ := ih hnext (by omega)
      have hstep := step_eq_primStep (h.like.turns.trans h.way.turns) (h.like.seq.trans hq)
      exact ⟨t', s', runsTo_succ.mpr ⟨_, hstep, hrun⟩, hfinish, h'⟩
    | finish =>
      simp only [stepsToEnd, hq] at hk
      cases hk

/-- What a command leaves that has ended. -/
structure CommandEnded (op : Op) (n : Count) (m : PinSet) (clkLow : Bool) (u : State) : Prop where
  seq : u.seq = .idle
  busy : u.busy = false
  status : u.status = statusOk
  levels : RestLevels op n clkLow u.pins
  owm : u.owm = m
  irqInhibit : u.irqInhibit = false

/-- The end line, taken where the good state has come to it. -/
theorem Alongside.ended (h : Alongside s₀ op base n src m clkLow t s) (hq : t.seq = .finish) :
    step s = .next (endCommand s) ∧ CommandEnded op n m clkLow (endCommand s) := by
  refine ⟨step_of_finish (h.like.turns.trans h.way.turns) (h.like.seq.trans hq), ?_⟩
  obtain ⟨hn, hstart, hdir, hclk⟩ := h.rest hq
  have hside := h.like.side
  exact
    { seq := rfl
      busy := rfl
      status := rfl
      levels :=
        { nRD := (congrArg (·.pins.nRD) hside :).trans hn
          start := (congrArg (·.pins.start) hside :).trans hstart
          dir := (congrArg (·.pins.dir) hside :).trans hdir
          clk := (congrArg (·.pins.clk) hside :).trans hclk }
      owm := by
        have hmask := h.mask
        rw [platformMask, hq] at hmask
        exact h.like.owm.trans hmask
      irqInhibit := by
        obtain hflag | hpending := h.like.flag
        · rw [endCommand_irqInhibit, hflag, h.way.inv.inhibit, hq]
          rfl
        · rw [hq] at hpending
          cases hpending }

end

section
variable {s : State}

/-- The engine's side of a state at rest is a good state. -/
theorem inv_engineSide (hseq : s.seq = .idle) (hbusy : s.busy = false) (hbound : boundOk s.waitBound = true) :
    Inv (engineSide s) := by
  have hq : (engineSide s).seq = .idle := hseq
  exact
    { memory := rfl
      dest := rfl
      bound := hbound
      busy := by rw [hq]; exact hbusy
      inhibit := by rw [hq]; rfl
      mask := by rw [hq]; exact nofun
      save := saveOk_of_not_inhibited (by rw [hq]; rfl)
      polls := pollsOk_of_not_wait (by rw [hq]; rfl)
      drive := fun _ _ => rfl
      place := by rw [placeOk, hq]; rfl }

/-- An accepted command whose first call is ADDR runs on as from the engine's side of the state it was accepted in. -/
theorem alongside_of_accept {o : Offer} {op : Op} {addr : HostAddress} {n : Count} (ho : Offering o s) (hready : AlwaysReady s)
    (hbound : boundOk s.waitBound = true)
    (hstep : EngineStep (engineSide s) (callAddr .head (accept op addr n (engineSide s)))) :
    Alongside (engineSide s) op (trunc40 addr) n (offeredSrc (engineSide s)) s.owm s.rfinClkLow
      (callAddr .head (accept op addr n (engineSide s))) (callAddr .head (accept op addr n s)) where
  way := underway_of_accept (inv_engineSide ho.seq ho.busy hbound) ho.seq ho.turns ⟨hready.1, fun _ => rfl⟩ hstep
    (.inr ⟨_, _, rfl, rfl⟩) ⟨_, _, _, rfl⟩
  like := ⟨rfl, .inr rfl, hready⟩
  mask := rfl
  clkLow_eq := rfl
  rest := nofun

/-- A command accepted so ends after the steps counted, its accept and its end one each (log 1). -/
theorem runsTo_commandEnded {o : Offer} {op : Op} {addr : HostAddress} {n : Count} (ho : Offering o s) (hready : AlwaysReady s)
    (hbound : boundOk s.waitBound = true) (hstep : step s = .next (callAddr .head (accept op addr n s)))
    (hside : EngineStep (engineSide s) (callAddr .head (accept op addr n (engineSide s)))) :
    ∃ u, runsTo (1 + stepsToEnd (callAddr .head (accept op addr n (engineSide s))) + 1) s u ∧
      CommandEnded op n s.owm s.rfinClkLow u := by
  obtain ⟨t', s', hrun, hfinish, h⟩ := (alongside_of_accept ho hready hbound hside).runs rfl
  obtain ⟨hend, hended⟩ := h.ended hfinish
  exact ⟨_, runsTo_snoc (runsTo_trans (runsTo_snoc (runsTo_zero s) hstep) hrun) hend, hended⟩

end

/-- Settles O51: the first address phase settles what a state at rest leaves open, and the steps are those of a good state. -/
theorem pokeTakesTheCountedSteps : Obligations.PokeTakesTheCountedSteps := by
  intro s o addr n ho hp hn hsrc hready hbound
  have hstep := step_accept_poke ho hp hsrc
  have hside : EngineStep (engineSide s) (pokeLoop (accept .poke addr n (engineSide s))) := .acceptPoke addr n ho.seq ho.busy
  have hcount := stepsToEnd_accept_poke (s := engineSide s) (addr := addr) hn
  rw [pokeLoop_accept addr hn] at hstep hside hcount
  obtain ⟨u, hrun, hu⟩ := runsTo_commandEnded ho hready hbound hstep hside
  rw [hcount, ← Nat.add_assoc] at hrun
  exact ⟨u, hrun, hu.seq, hu.busy, hu.status, hu.levels.nRD, hu.levels.start, hu.levels.dir, hu.levels.clk, hu.owm,
    hu.irqInhibit⟩

/-- Settles O52: likewise; also with no words PEEK has its address phase and its final Read-Finish. -/
theorem peekTakesTheCountedSteps : Obligations.PeekTakesTheCountedSteps := by
  intro s o addr n ho hp hroom hready hbound
  have hside : EngineStep (engineSide s) (callAddr .head (accept .peek addr n (engineSide s))) :=
    .acceptPeek addr n ho.seq ho.busy
  obtain ⟨u, hrun, hu⟩ := runsTo_commandEnded ho hready hbound (step_accept_peek ho hp hroom) hside
  rw [stepsToEnd_accept_peek, ← Nat.add_assoc, ← Nat.add_assoc] at hrun
  exact ⟨u, hrun, hu.seq, hu.busy, hu.status, hu.levels.nRD, hu.levels.start, hu.levels.dir, hu.levels.clk, hu.owm,
    hu.irqInhibit⟩

end Sys2Proof.Machine
end

section
/-! SUPPORT. Faults and stalls (60_exceptions.md): the port while BUSY = 1, the next state the engine always has, the wait for a dead
responder, the entry of ACK_TIMEOUT: O11, O14, O23, O25. -/

namespace Sys2Proof.Machine

/-! ### The port while a command is in flight (R29, R213) -/

/-- The engine takes an offer off the port by an accept or a refusal, and either needs BUSY = 0. -/
theorem engineStep_keeps_port {s t : State} (hbusy : s.busy = true) (h : EngineStep s t) : t.port = s.port := by
  cases h with
  | rest => rfl
  | refuse hseq hfree => exact absurd hbusy (by simp [hfree])
  | acceptPoke addr n hseq hfree => exact absurd hbusy (by simp [hfree])
  | acceptPeek addr n hseq hfree => exact absurd hbusy (by simp [hfree])
  | prim b p =>
    obtain hf | ⟨w, e⟩ := primStep_frame_or_timeout b p s
    · exact hf.port
    · rw [e, raiseAckTimeout_eq]
  | finish => rfl

/-- Settles O11: the moves of the other agents leave the port alone, and the engine's are those above. -/
theorem offersWaitWhileBusy : Obligations.OffersWaitWhileBusy := by
  intro s t hbusy h
  cases machineStep_of_step h with
  | engine ts t he =>
    have hport := engineStep_keeps_port (s := { s with turns := ts }) hbusy he
    exact hport
  | handlerOwm => rfl
  | handlerPins => rfl
  | configure => rfl

/-! ### The engine never stops (R210, R227, R242) -/

section
variable {s : State}

/-- A command that finds the port ready is accepted or refused with CONTRACT: it has a next state (R190, R191, R213). -/
theorem exec_command_of_portReady {i : Instr} (hready : portReady s = true) (hi : i.isCommand = true) :
    ∃ t, exec i s = .next t := by
  cases i with
  | poke addr n =>
    simp only [exec, execPoke, if_pos hready]
    split <;> exact ⟨_, rfl⟩
  | peek addr n =>
    simp only [exec, execPeek, if_pos hready]
    split <;> exact ⟨_, rfl⟩
  | addr a => cases hi
  | wdata w => cases hi
  | rdata => cases hi
  | rfin => cases hi

/-- At IDLE with BUSY = 1, or with nothing offered, a step holds the whole state (R29, R227, R242). -/
theorem step_of_rest (hturns : s.turns = []) (hseq : s.seq = .idle) (hrest : s.busy = true ∨ s.port = []) :
    step s = .next s := by
  have hmove : engineMove s = .rest s := by
    obtain hbusy | hport := hrest
    · simp [engineMove, hseq, hbusy]
    · simp [engineMove, hseq, portMove, hport]
  rw [step_eq_outcomeOf, nextMove, hturns, hmove, outcomeOf]

/-- The next state from IDLE: a command is run only where BUSY = 0, so the port is ready for it (R29). -/
theorem exists_step_of_idle (hturns : s.turns = []) (hseq : s.seq = .idle) : ∃ t, step s = .next t := by
  cases hbusy : s.busy with
  | true => exact ⟨s, step_of_rest hturns hseq (.inl hbusy)⟩
  | false =>
    obtain h | h | ⟨i, hi, h⟩ := step_of_idle hturns hseq
    · exact ⟨s, h⟩
    · exact ⟨refuseContract s, h⟩
    · rw [h]
      exact exec_command_of_portReady (portReady_of_idle hseq hbusy) hi

end

/-- Settles O14: by the sequencer's position, at rest, inside a primitive or at the `end:` line. -/
theorem engineAlwaysHasANextState : Obligations.EngineAlwaysHasANextState := by
  intro s hturns
  refine ⟨?_, fun hseq hport => step_of_rest hturns hseq (.inr hport)⟩
  cases hseq : s.seq with
  | idle => exact exists_step_of_idle hturns hseq
  | run b p => exact ⟨primStep b p s, step_eq_primStep hturns hseq⟩
  | finish => exact ⟨endCommand s, step_of_finish hturns hseq⟩

/-! ### A dead responder and no bound (R210) -/

/-- The position of a wait is inside a primitive. -/
theorem exists_wait_of_isWait {q : Seq} (h : isWait q = true) : ∃ b p w, q = .run b p ∧ primWait p = some w := by
  cases q with
  | idle => cases h
  | run b p =>
    rw [isWait_run, Option.isSome_iff_exists] at h
    obtain ⟨w, hw⟩ := h
    exact ⟨b, p, w, rfl, hw⟩
  | finish => cases h

/-- A sample of a dead responder is 0 and leaves no trace, and without a bound there is no POLLS to count it in (R25, R88; log 10). -/
theorem step_of_dead_responder {s : State} (hturns : s.turns = []) (hwait : isWait s.seq = true) (hbound : s.waitBound = none)
    (he : s.env = .fixture) (hd : scriptDelay s.fix.script s.fix.waits = none) : step s = .next s := by
  obtain ⟨b, p, w, hseq, hw⟩ := exists_wait_of_isWait hwait
  have hsample := sampleNWait_of_infinity he hd
  rw [step_eq_primStep hturns hseq, primStep_of_wait b s hw,
    waitStep_of_zero (boundReached_unbounded hbound) (by rw [hsample]), hsample, countPoll_eq, if_pos hbound]

/-- A state that a step leaves as it is stays so for any number of steps. -/
theorem runsTo_of_step_self {s : State} (h : step s = .next s) (k : Nat) : runsTo k s s := by
  induction k with
  | zero => exact runsTo_zero s
  | succ k ih => exact runsTo_snoc ih h

/-- Settles O23: the step at the wait is a fixed point. -/
theorem deadResponderHangsTheEngine : Obligations.DeadResponderHangsTheEngine := by
  intro s k hturns hwait hbound he hd
  exact runsTo_of_step_self (step_of_dead_responder hturns hwait hbound he hd) k

/-! ### The entry of ACK_TIMEOUT (R214, R215) -/

/-- Settles O25: with POLLS at the bound the step is the raise, written out for each kind of wait. -/
theorem ackTimeoutEntry : Obligations.AckTimeoutEntry := by
  intro s b p w hturns hseq hkind hbound
  have hw : primWait p = some w := by obtain ⟨rfl, rfl⟩ | ⟨rfl, rfl⟩ | ⟨rfl, rfl⟩ := hkind <;> rfl
  have hraise : step s = .next (raiseAckTimeout w s) := step_polledTimes_bound hturns hseq hw hbound
  rw [hraise, raiseAckTimeout_eq]
  cases w <;> rfl

end Sys2Proof.Machine
end

section
/-! SUPPORT. Reset and termination (70_reset_and_hazards.md R240, R241, R261): a bound on the steps that a command in flight has left when
WAIT_BOUND is not none: O34, O55. -/

namespace Sys2Proof.Machine

/-- Settles O34: the reset state writes these values out and takes the four levels from RESET_PINS. -/
theorem resetIsIdleWithNothingOpen : Obligations.ResetIsIdleWithNothingOpen :=
  fun _ => ⟨rfl, rfl, rfl, rfl, rfl, rfl, rfl, rfl, rfl⟩

/-! ### A bound on the steps left, whatever the responder does (R194, R261) -/

/-- No more steps than this lead to the command's `end:` line or to ACK_TIMEOUT: each step of the count without zeros (R194) can be a
wait that first samples `bound` of them, and the present wait has its own left. -/
def mostStepsToEnd (bound : Nat) (s : State) : Nat := (bound + 1) * stepsToEnd s + (bound - s.regs.polls)

section
variable {s t : State} {b : BlockPos} {p : PrimPos} {w : WaitKind} {bound : Nat}

/-- A step nearer to the end outweighs whatever POLLS becomes. -/
theorem mostStepsToEnd_lt_of_stepsToEnd_lt (h : stepsToEnd t < stepsToEnd s) : mostStepsToEnd bound t < mostStepsToEnd bound s :=
  calc mostStepsToEnd bound t
    _ < (bound + 1) * (stepsToEnd t + 1) := by rw [mostStepsToEnd, Nat.mul_succ]; omega
    _ ≤ (bound + 1) * stepsToEnd s := Nat.mul_le_mul_left _ h
    _ ≤ mostStepsToEnd bound s := Nat.le_add_right _ _

/-- At a wait whose bound is not reached another sample of 0 has room in POLLS (R139). -/
theorem Inv.polls_lt_of_wait (hi : Inv s) (hq : s.seq = .run b p) (hw : primWait p = some w) (hbound : s.waitBound = some bound)
    (hb : boundReached s = false) : s.regs.polls < bound := by
  have hle : s.regs.polls ≤ bound := by simpa [pollsOk, hbound, hq, isWait_run, hw] using hi.polls
  have hne : s.regs.polls ≠ bound := by simpa [boundReached, hbound] using hb
  omega

/-- A sample of 0 leaves the engine where it is, with one more in POLLS. -/
theorem mostStepsToEnd_countPoll_lt (hbound : s.waitBound = some bound) (hlt : s.regs.polls < bound) :
    mostStepsToEnd bound (countPoll (sampleNWait s).2) < mostStepsToEnd bound s := by
  obtain ⟨o, d, n, h⟩ := sampleNWait_eq s
  have hsteps : stepsToEnd (countPoll (sampleNWait s).2) = stepsToEnd s := by
    rw [h, countPoll_eq]
    rfl
  have hpolls : (countPoll (sampleNWait s).2).regs.polls = s.regs.polls + 1 := by
    rw [h, countPoll_eq]
    simp [hbound]
  rw [mostStepsToEnd, mostStepsToEnd, hsteps, hpolls]
  omega

theorem stepsToEnd_raiseAckTimeout (w : WaitKind) (s : State) : stepsToEnd (raiseAckTimeout w s) = 0 := by
  rw [raiseAckTimeout_eq]
  rfl

/-- With a bound every step of a primitive comes nearer to the end: it does its action, ends its wait, counts a zero, or reports. -/
theorem mostStepsToEnd_primStep_lt (hi : Inv s) (hq : s.seq = .run b p) (hbound : s.waitBound = some bound) :
    mostStepsToEnd bound (primStep b p s) < mostStepsToEnd bound s := by
  have hpast : ∀ u, PastAction p s u → mostStepsToEnd bound (primAfter b p u) < mostStepsToEnd bound s := fun u hu =>
    mostStepsToEnd_lt_of_stepsToEnd_lt (Nat.lt_of_succ_le (stepsToEnd_primAfter hi hq hu).le)
  cases hw : primWait p with
  | none =>
    rw [primStep_of_action b s hw]
    exact hpast _ (pastAction_perform hi hq)
  | some w =>
    rw [primStep_of_wait b s hw]
    obtain ⟨-, h⟩ | ⟨-, -, h⟩ | ⟨hb, -, h⟩ := waitStep_cases w (primAfter b p) s
    · rw [h]
      apply mostStepsToEnd_lt_of_stepsToEnd_lt
      rw [stepsToEnd_raiseAckTimeout, stepsToEnd_run hq]
      exact Nat.add_pos_left (primStepsLeft_pos _ _) _
    · rw [h]
      exact hpast _ (pastAction_wait hi hq hw)
    · rw [h]
      exact mostStepsToEnd_countPoll_lt hbound (hi.polls_lt_of_wait hq hw hbound hb)

/-- So the engine is at IDLE again after no more steps than that and the one at the `end:` line, by induction on the bound on the steps
left. -/
theorem runsTo_idle_of_bounded (hi : Inv s) (hturns : s.turns = []) (hbound : s.waitBound = some bound) :
    ∃ k ≤ mostStepsToEnd bound s + 1, ∃ t, runsTo k s t ∧ t.seq = .idle ∧ Inv t := by
  induction hm : mostStepsToEnd bound s using Nat.strong_induction_on generalizing s with
  | _ m ih =>
    cases hq : s.seq with
    | idle => exact ⟨0, Nat.zero_le _, s, runsTo_zero s, hq, hi⟩
    | run b p =>
      have hstep : EngineStep s (primStep b p s) := .prim b p hq
      have hless := mostStepsToEnd_primStep_lt hi hq hbound
      obtain ⟨k, hk, t, hrun, ht⟩ := ih _ (hm ▸ hless) (inv_primStep hi hq) ((engineStep_turns hstep).trans hturns)
        ((engineStep_keeps_configuration hstep).1.trans hbound) rfl
      exact ⟨k + 1, by omega, t, runsTo_succ.mpr ⟨_, step_eq_primStep hturns hq, hrun⟩, ht⟩
    | finish =>
      have hrun : runsTo 1 s (endCommand s) := runsTo_snoc (runsTo_zero s) (step_of_finish hturns hq)
      exact ⟨1, by omega, endCommand s, hrun, rfl, engineStep_keeps_inv hi (.finish hq)⟩

end

/-- Settles O55: from any good state the run to IDLE above, at which a good state has BUSY = 0 (R29). -/
theorem boundedCommandsEnd : Obligations.BoundedCommandsEnd := by
  intro s bound hi hturns hbound
  obtain ⟨k, -, t, hrun, hidle, ht⟩ := runsTo_idle_of_bounded hi hturns hbound
  exact ⟨k, t, hrun, hidle, by rw [ht.busy, hidle]; rfl⟩

end Sys2Proof.Machine
end

section
/-! SUPPORT. An instruction issued while another is in flight (93 U1; log 14): O12. -/

namespace Sys2Proof.Machine

section
variable {s : State}

/-! ### A command, while the port is not ready for it (R29, R190, R191) -/

theorem portReady_of_inFlight (h : s.busy = true ∨ s.seq ≠ .idle) : portReady s = false := by
  obtain hbusy | hseq := h
  · simp [portReady, hbusy]
  · simp [portReady, hseq]

theorem exec_command_of_not_portReady {i : Instr} (hready : portReady s = false) (hi : i.isCommand = true) :
    exec i s = .refused .overlap := by
  cases i with
  | poke addr n => simp [exec, execPoke, hready]
  | peek addr n => simp [exec, execPeek, hready]
  | addr a => cases hi
  | wdata w => cases hi
  | rdata => cases hi
  | rfin => cases hi

/-! ### A primitive, while the sequencer is neither at IDLE nor inside that primitive (R160) -/

theorem exec_addr_of_elsewhere (a : Address) (hidle : s.seq ≠ .idle) (hother : ∀ q b, s.seq ≠ .run b (.addr q)) :
    exec (.addr a) s = .refused .overlap := by
  simp only [exec, execAddr]
  split
  · next b q hseq => exact absurd hseq (hother q b)
  · next hseq => exact absurd hseq hidle
  all_goals rfl

theorem exec_wdata_of_elsewhere (w : Word) (hidle : s.seq ≠ .idle) (hother : ∀ q b, s.seq ≠ .run b (.wdata q)) :
    exec (.wdata w) s = .refused .overlap := by
  simp only [exec, execWdata]
  split
  · next b q hseq => exact absurd hseq (hother q b)
  · next hseq => exact absurd hseq hidle
  all_goals rfl

theorem exec_rdata_of_elsewhere (hidle : s.seq ≠ .idle) (hother : ∀ q b, s.seq ≠ .run b (.rdata q)) :
    exec .rdata s = .refused .overlap := by
  simp only [exec, execRdata]
  split
  · next b q hseq => exact absurd hseq (hother q b)
  · next hseq => exact absurd hseq hidle
  all_goals rfl

theorem exec_rfin_of_elsewhere (hidle : s.seq ≠ .idle) (hother : ∀ q b, s.seq ≠ .run b (.rfin q)) :
    exec .rfin s = .refused .overlap := by
  simp only [exec, execRfin]
  split
  · next b q hseq => exact absurd hseq (hother q b)
  · next hseq => exact absurd hseq hidle
  all_goals rfl

end

/-- Settles O12: the port is not ready for a command, and the `end:` line and the positions of another primitive are elsewhere for a
primitive. -/
theorem overlapIsRefused : Obligations.OverlapIsRefused := by
  intro s
  refine ⟨fun addr n hflight => ?_, fun hseq => ?_, fun b p hseq => ?_⟩
  · have hready := portReady_of_inFlight hflight
    exact ⟨exec_command_of_not_portReady hready rfl, exec_command_of_not_portReady hready rfl⟩
  · have hidle : s.seq ≠ .idle := by simp [hseq]
    have hother : ∀ b p, s.seq ≠ .run b p := by simp [hseq]
    exact ⟨fun a => exec_addr_of_elsewhere a hidle fun _ _ => hother _ _,
      fun w => exec_wdata_of_elsewhere w hidle fun _ _ => hother _ _,
      exec_rdata_of_elsewhere hidle fun _ _ => hother _ _, exec_rfin_of_elsewhere hidle fun _ _ => hother _ _⟩
  · have hidle : s.seq ≠ .idle := by simp [hseq]
    have hother : ∀ p', p ≠ p' → ∀ b', s.seq ≠ .run b' p' := by simp +contextual [hseq]
    exact ⟨fun hp a => exec_addr_of_elsewhere a hidle fun q => hother _ (hp q),
      fun hp w => exec_wdata_of_elsewhere w hidle fun q => hother _ (hp q),
      fun hp => exec_rdata_of_elsewhere hidle fun q => hother _ (hp q),
      fun hp => exec_rfin_of_elsewhere hidle fun q => hother _ (hp q)⟩

end Sys2Proof.Machine
end
